-- ==== Sys2Proof/Word.lean ====
section
/-! DEFINITION. The words of the part: the fields the spec fixes by a bit width.
A segment position counts modulo 2^20 (section 5.2 of the scope file), so it is a bit vector of 20 bits. -/

namespace Sys2Proof

/-- One byte of a link. -/
abbrev Byte := BitVec 8

/-- The 16-bit tag of a record, and the 16-bit time tag of a report. -/
abbrev Tag := BitVec 16

/-- A segment position in path units, counted modulo 2^20. -/
abbrev Pos := BitVec 20

/-- SET NUMBER: any 32-bit value. -/
abbrev SetNumber := BitVec 32

/-- An image handle: any 32-bit value, passed on unchanged. -/
abbrev Handle := BitVec 32

end Sys2Proof
end

