-- ==== Sys2Proof/Syntax.lean ====
section
/-! DEFINITION. The vocabulary of the spec (names of segments, stations, states, codes and reports) and the
commands: Instr has one constructor per row of spec/opcode_table.json.

A record command carries the record as Record Intake takes it: its tag and its body bytes. A command whose rule
reads an input line that has no row of its own (drawer empty, shelf empty, collator ready, controller ready)
carries that line's level at the moment of the command (assumption log 4). Levels are electrical, low, high or open,
and R183's table reads them; controller ready and the edges that commands stand for are given by their meaning (log 32). -/

namespace Sys2Proof

/-! ## Places -/

/-- The three travel segments (scope file, 4.1). -/
inductive Segment where
  | main | duplex | belt
deriving DecidableEq, Repr, Inhabited

/-- The fourteen stations, in id order 0 to 13 (scope file, 4.3). -/
inductive Station where
  | d1x | d2x | d3x | d4x | shx | reg | xfr | fus | div | out | prg | dxe | inv | dxs
deriving DecidableEq, Repr, Inhabited

/-- The four drawers. -/
inductive Drawer where
  | d1 | d2 | d3 | d4
deriving DecidableEq, Repr, Inhabited

/-- The five sources: drawers 1 to 4 and the shelf (scope file, 4.2). -/
inductive Source where
  | drawer (d : Drawer)
  | shelf
deriving DecidableEq, Repr, Inhabited

/-- The three line stop sources (R144). -/
inductive StopLine where
  | upstream | collator | panel
deriving DecidableEq, Repr

/-! ## Lines (R183) -/

/-- The level of a line: low, high, or an open circuit; the part drives its outputs low or high (R183). -/
inductive Wire where
  | low | high | open
deriving DecidableEq, Repr, Inhabited

/-- The input lines to which R183 gives a sense; the encoder phases have none. -/
inductive InputLine where
  | sensor (station : Station)
  | seamMark
  | drawerEmpty (drawer : Drawer)
  | shelfEmpty
  | stop (line : StopLine)
  | collatorReady
  | collatorDone
  | collatorFault
deriving DecidableEq, Repr

/-! ## States and codes -/

/-- Path states (R135). -/
inductive PathState where
  | idle | running | halting | halted | stopped
deriving DecidableEq, Repr

/-- Run modes (R136). -/
inductive RunMode where
  | simplex | duplex
deriving DecidableEq, Repr, Inhabited

/-- Sequence policies (R136). -/
inductive Policy where
  | strict | relaxed
deriving DecidableEq, Repr, Inhabited

/-- The run parameters START RUN stores (R136). -/
structure RunParams where
  mode    : RunMode
  policy  : Policy
  setGap  : Nat
  timeout : Nat
deriving DecidableEq, Repr, Inhabited

/-- Registry states (R42). -/
inductive SetState where
  | open | sealed | spoiled | awaitingReprint | delivering | failed
deriving DecidableEq, Repr

/-- Spoil reasons (R41). -/
inductive SpoilReason where
  | length | image | stranded | order | cascade
deriving DecidableEq, Repr, Inhabited

/-- States of a tracking entry (R84). -/
inductive SheetState where
  | feeding | approaching | staged | moving | shelved | stranded
deriving DecidableEq, Repr

/-- A sheet's pass through transfer. -/
inductive Pass where
  | first | second
deriving DecidableEq, Repr

/-- Destinations of a tracking entry (R83). -/
inductive Destination where
  | undecided | out | prg | dxe
deriving DecidableEq, Repr

/-- Positions of the diverter line (R98). -/
inductive DiverterLine where
  | out | prg | dxe
deriving DecidableEq, Repr

/-- Collator states (R122). -/
inductive CollatorMode where
  | empty | collecting | pushing | dumping | faulted
deriving DecidableEq, Repr

/-- The two media banks, named by their generation number (R163). -/
inductive Bank where
  | bank0 | bank1
deriving DecidableEq, Repr, Inhabited

/-- States of the inactive media bank (R163). -/
inductive BankState where
  | free | loading | retiring
deriving DecidableEq, Repr

/-- Lock states (R166). -/
inductive LockState where
  | unlocked | locked | lockedDown
deriving DecidableEq, Repr, Inhabited

/-- Operations of a LOCK record (R166). -/
inductive LockOp where
  | lock | unlock | lockDown
deriving DecidableEq, Repr

/-- The four tables (R153). -/
inductive TableName where
  | media | station | segment | belt
deriving DecidableEq, Repr

/-- Reasons of a TABLE DISCARDED report (R162). -/
inductive DiscardReason where
  | sequence | field | locked | state | incomplete | geometry | aborted
deriving DecidableEq, Repr

/-- The sixteen conditions, in index order (R167). -/
inductive Condition where
  | jam | beltSlip | collatorFault | externalStop | spoil | setFailed | imageFault | refused
  | loadSequence | loadDiscarded | trimLimit | drawerEmpty | reportBacklog | reportLost | halted | reprintPending
deriving DecidableEq, Repr

/-- Stop causes (R184, JAM body). -/
inductive StopCause where
  | leadEarly | leadOverdue | trailOverdue | overlap | collatorOverrun | collatorFault | beltSlip
  | externalStop | resetWithPaper
deriving DecidableEq, Repr

/-- Refusal codes (R176, R184). -/
inductive RefusalCode where
  | badFrame | badField | noRun | unknownMedia | duplexNotPermitted | setTooLong | badSequence | interleaved
  | attemptTooHigh | reprintNotRequested | outOfSequence | wrongState | outOfRange | locked | tablesBusy
  | tablesIncomplete | notClear | conditionsSet | noLoad
deriving DecidableEq, Repr

/-- Record kinds of the inward side (R180). -/
inductive RecordKind where
  | sheet | startRun | halt | resume | endRun | pathCleared | runReset | query | clearConditions | setMask
  | lock | setTrim | loadBegin | loadEntry | loadCommit | loadAbort
deriving DecidableEq, Repr

/-! ## Sheets, orders and reports -/

/-- A sheet's identity: SET NUMBER, ATTEMPT and SEQUENCE IN SET (scope file, 5.5). -/
structure SheetId where
  set     : SetNumber
  attempt : Nat
  seq     : Nat
deriving DecidableEq, Repr

/-- A set at an attempt: what a collator holds (R122). -/
structure HeldSet where
  set     : SetNumber
  attempt : Nat
deriving DecidableEq, Repr

/-- The sheet a stop names: its tag and identity (R108, R146). -/
structure NamedSheet where
  tag   : Tag
  sheet : SheetId
deriving DecidableEq, Repr

/-- One element of a JAM report's stranded list (R109). -/
structure StrandedSheet where
  tag        : Tag
  set        : SetNumber
  seq        : Nat
  lastPassed : Option Station
deriving DecidableEq, Repr

/-- Outcomes of a SET DONE report (R59). -/
inductive SetOutcome where
  | delivered | failed | withdrawn
deriving DecidableEq, Repr

/-- Outcomes of a TABLE report (R162): COMMITTED with a generation for MEDIA, or DISCARDED with a reason. -/
inductive TableOutcome where
  | committed (generation : Option Bank)
  | discarded (reason : DiscardReason)
deriving DecidableEq, Repr

/-- The diverter's state without the sheet it names, as a STATUS report shows it (R177). -/
inductive DiverterKind where
  | free | set | busy
deriving DecidableEq, Repr

/-- The snapshot a STATUS report carries (R177). -/
structure StatusSnapshot where
  pathState      : PathState
  runActive      : Bool
  params         : Option RunParams
  stopUpstream   : Bool
  stopCollator   : Bool
  stopPanel      : Bool
  stopFault      : Bool
  stopCause      : Option StopCause
  atRest         : Bool
  latch          : BitVec 16
  mask           : BitVec 16
  orders         : Nat
  registry       : Nat
  tracks         : Nat
  shelf          : Nat
  reservation    : Nat
  ring           : Nat
  reports        : Nat
  blanks         : Nat
  collator       : CollatorMode
  held           : Option HeldSet
  collected      : Nat
  diverter       : DiverterKind
  diverterLine   : DiverterLine
  trimMain       : Int
  trimDuplex     : Int
  synced         : Bool
  activeBank     : Bank
  retiringBank   : Option Bank
  load           : Option TableName
  mediaLocks     : Vector LockState 16
  stationLocks   : Vector LockState 14
deriving DecidableEq, Repr

/-- The reports and their fields (section 10.5). -/
inductive ReportBody where
  | setDone (set : SetNumber) (attempt : Nat) (outcome : SetOutcome) (sheets : Nat)
  | reprint (set : SetNumber) (attempt : Nat) (reason : Option SpoilReason) (ownFailures : Nat)
  | jam (cause : StopCause) (station : Option Station) (sheetTag : Option Tag) (deviation : Option Int)
      (stranded : List StrandedSheet)
  | alert (condition : Condition) (latch : BitVec 16)
  | refusal (tag : Option Tag) (kind : Option RecordKind) (code : RefusalCode)
  | table (table : TableName) (outcome : TableOutcome) (tag : Tag)
  | path (state : PathState) (runActive : Bool)
  | status (snapshot : StatusSnapshot)
deriving DecidableEq, Repr

/-- A report: its body and the time tag it was stamped with when it joined the queue (R172, R175). -/
structure Report where
  timeTag : Tag
  body    : ReportBody
deriving DecidableEq, Repr

/-! ## The commands -/

/-- The drawer-empty lines 1 to 4, at their levels (R183). -/
structure DrawerLines where
  d1 : Wire
  d2 : Wire
  d3 : Wire
  d4 : Wire
deriving DecidableEq, Repr

/-- A forward count: its segment; the drawer-empty lines at its moment, which a pitch commit event that its carry delivers
reads (R3, R5, R69); and how many of the sensor and seam line changes that wait behind it fall in its travel, so that any of
them may be taken before an event of its carry (R63 to R65, R92, R96; log 33). -/
structure ForwardCount where
  segment : Segment
  drawers : DrawerLines
  lines   : Nat
deriving DecidableEq, Repr

/-- The input lines as power-on reset finds them, at their levels (R152, R183): the sensors, the stop lines, the
collator's lines, the drawer-empty and shelf-empty lines, and controller ready (true is asserted). -/
structure PowerOnLines where
  sensors         : Vector Wire 14
  stopUpstream    : Wire
  stopCollator    : Wire
  stopPanel       : Wire
  collatorDone    : Wire
  collatorFault   : Wire
  collatorReady   : Wire
  drawers         : DrawerLines
  shelfEmpty      : Wire
  controllerReady : Bool
deriving DecidableEq, Repr

/-- The commands: one constructor per row of spec/opcode_table.json, in the table's order. -/
inductive Instr where
  /-- POWER_ON_RESET (R152). -/
  | powerOnReset (lines : PowerOnLines)
  /-- SHEET (R24). -/
  | sheet (tag : Tag) (body : List Byte)
  /-- HELD_SHEET_RETRY (R39). -/
  | heldSheetRetry
  /-- START_RUN (R138); it reads the shelf-empty and collator ready lines. -/
  | startRun (tag : Tag) (body : List Byte) (shelfEmpty collatorReady : Wire)
  /-- HALT (R140). -/
  | halt (tag : Tag) (body : List Byte)
  /-- RESUME (R142); it reads the collator ready line. -/
  | resume (tag : Tag) (body : List Byte) (collatorReady : Wire)
  /-- END_RUN (R143). -/
  | endRun (tag : Tag) (body : List Byte)
  /-- PATH_CLEARED (R149, R150); it reads the shelf-empty and collator ready lines. -/
  | pathCleared (tag : Tag) (body : List Byte) (shelfEmpty collatorReady : Wire)
  /-- RUN_RESET (R151); it reads the shelf-empty line. -/
  | runReset (tag : Tag) (body : List Byte) (shelfEmpty : Wire)
  /-- QUERY (R177). -/
  | query (tag : Tag) (body : List Byte)
  /-- CLEAR_CONDITIONS (R170). -/
  | clearConditions (tag : Tag) (body : List Byte)
  /-- SET_MASK (R168). -/
  | setMask (tag : Tag) (body : List Byte)
  /-- LOCK (R166): a LOCK record whose operation byte is neither UNLOCK nor LOCK DOWN; the body is whole, so
  this row also carries the malformed LOCK records. -/
  | lock (tag : Tag) (body : List Byte)
  /-- UNLOCK (R166): a LOCK record whose operation byte is UNLOCK; rest is the body after that byte. -/
  | unlock (tag : Tag) (rest : List Byte)
  /-- LOCK_DOWN (R166): a LOCK record whose operation byte is LOCK DOWN; rest is the body after that byte. -/
  | lockDown (tag : Tag) (rest : List Byte)
  /-- SET_TRIM (R20). -/
  | setTrim (tag : Tag) (body : List Byte)
  /-- LOAD_BEGIN (R154). -/
  | loadBegin (tag : Tag) (body : List Byte)
  /-- LOAD_ENTRY (R155). -/
  | loadEntry (tag : Tag) (body : List Byte)
  /-- LOAD_COMMIT (R158). -/
  | loadCommit (tag : Tag) (body : List Byte)
  /-- LOAD_ABORT (R161). -/
  | loadAbort (tag : Tag) (body : List Byte)
  /-- UNKNOWN_KIND_RECORD (R180): kind is a code that names no record kind. -/
  | unknownKindRecord (kind : Byte) (tag : Tag) (body : List Byte)
  /-- BAD_FRAME (R179): the frame at the head of the receive buffer comes to its turn. -/
  | badFrame
  /-- INTER_BYTE_GAP (R179). -/
  | interByteGap
  /-- REPORT_TRANSMIT (R172, R181); it reads the controller ready line. -/
  | reportTransmit (controllerReady : Bool)
  /-- IMAGE_FAULT (R81, R182). -/
  | imageFault (pitch : Byte) (handle : Handle)
  /-- IMAGER_FRAME_DISCARD (R182): the nine bytes of the inbound frame. -/
  | imagerFrameDiscard (frame : List Byte)
  /-- FORWARD_COUNT (R3). -/
  | forwardCount (count : ForwardCount)
  /-- REVERSE_COUNT (R4). -/
  | reverseCount (segment : Segment)
  /-- PHASE_ERROR (R2). -/
  | phaseError (segment : Segment)
  /-- SENSOR_CHANGE (R9): the station's sensor line changes its level. -/
  | sensorChange (station : Station)
  /-- DEBOUNCE_POINT_REACHED (R11). -/
  | debouncePointReached (station : Station)
  /-- SEAM_MARK (R63, R64); a pitch commit event that follows at once reads the drawer-empty lines. -/
  | seamMark (drawers : DrawerLines)
  /-- SEAM_WATCH_POINT (R65). -/
  | seamWatchPoint
  /-- PITCH_COMMIT_EVENT (R67); it reads the drawer-empty lines. -/
  | pitchCommitEvent (drawers : DrawerLines)
  /-- FEED_START (R75). -/
  | feedStart (sheet : SheetId)
  /-- RELEASE (R78). -/
  | release
  /-- GATE_CLOSE_POINT (R79). -/
  | gateClosePoint
  /-- LEAD_DEADLINE (R88). -/
  | leadDeadline (sheet : SheetId)
  /-- TRAIL_DEADLINE (R96). -/
  | trailDeadline (sheet : SheetId)
  /-- SETTLE_POINT (R115). -/
  | settlePoint (sheet : SheetId)
  /-- STOP_LINE_ASSERTED (R144). -/
  | stopLineAsserted (line : StopLine)
  /-- STOP_LINE_RELEASED (R144). -/
  | stopLineReleased (line : StopLine)
  /-- COLLATOR_DONE (R129). -/
  | collatorDone
  /-- COLLATOR_FAULT_LINE (R130). -/
  | collatorFaultLine
  /-- COLLATOR_TIMER_EXPIRY (R127). -/
  | collatorTimerExpiry
  /-- AT_REST (R148). -/
  | atRest
  /-- ORDER_LINK_BYTE (R179). -/
  | orderLinkByte (byte : Byte)
deriving DecidableEq, Repr

end Sys2Proof
end

