-- ==== Sys2Proof/Config.lean ====
section
/-! DEFINITION. What a print engine fixes: the entries of the four tables, the part's capacities, and the free
values, which are opaque constants with no body, so that nothing can be proved of their value. -/

namespace Sys2Proof

/-! ## Table entries -/

/-- A defined media entry (R22, R156). -/
structure MediaEntry where
  drawer          : Drawer
  length          : Nat
  tolerance       : Nat
  duplexPermitted : Bool
deriving DecidableEq, Repr, Inhabited

/-- A station entry (R7). -/
structure StationEntry where
  position : Nat
  latency  : Int
  window   : Nat
  debounce : Nat
  aux      : Nat
deriving DecidableEq, Repr, Inhabited

/-- A segment entry (R16). -/
structure SegmentEntry where
  scale    : Nat
  trimA    : Station
  trimB    : Station
  deadband : Nat
  autoTrim : Bool
deriving DecidableEq, Repr, Inhabited

/-- The belt entry (R61). -/
structure BeltEntry where
  scale          : Nat
  revolution     : Nat
  pitches        : Nat
  pitchLength    : Nat
  seamOffset     : Nat
  seamTolerance  : Nat
  writeToRelease : Nat
  stagingMargin  : Nat
  clearance      : Nat
deriving DecidableEq, Repr, Inhabited

/-- The segment table: one entry for MAIN and one for DUPLEX (R16). -/
structure SegmentTable where
  main   : SegmentEntry
  duplex : SegmentEntry
deriving DecidableEq, Repr, Inhabited

/-! ## Capacities (scope file, section 6) -/

/-- The order queue holds never more than 32 orders (R35). -/
def orderCapacity : Nat := 32
/-- The registry holds at most 16 sets (R41). -/
def registryCapacity : Nat := 16
/-- The tracking table holds at most 24 sheets (R83). -/
def trackCapacity : Nat := 24
/-- The report queue holds at most 64 reports (R172). -/
def reportCapacity : Nat := 64
/-- The backlog threshold (R174). -/
def backlogThreshold : Nat := 48
/-- The receive buffer's bytes (R179). -/
def receiveCapacity : Nat := 512
/-- The bytes of a frame of the largest size (R181). -/
def largestFrame : Nat := 262
/-- The gap, in ms, between two bytes of a frame beyond which the frame ends early (R179). -/
def longestGap : Nat := 2
/-- The silence, in ms, at which the machine is at rest (R148). -/
def restSilence : Nat := 200
/-- The largest number of sheets in a set (R32). -/
def largestSet : Nat := 64
/-- The value at which the blank-pitch count is held (R177). -/
def blankLimit : Nat := 65535

/-! ## Free values (assumption logs 7 and 8) -/

/-- What a read of an undefined media entry gives; no reachable state reads one (log 7). -/
opaque Config.undefinedMedia : Bank → Fin 16 → MediaEntry
/-- What a read of an entry of the undefined station table gives; no reachable state reads one (log 7). -/
opaque Config.undefinedStation : Station → StationEntry
/-- What a read of the undefined segment table gives; no reachable state reads one (log 7). -/
opaque Config.undefinedSegment : Segment → SegmentEntry
/-- What a read of the undefined belt table gives; no reachable state reads one (log 7). -/
opaque Config.undefinedBelt : BeltEntry
/-- What a read of the run parameters gives while none are stored; no reachable state reads them then (log 7). -/
opaque Config.absentParams : RunParams
/-- What an open circuit reads as on an input line for which R183 does not say (log 32). -/
opaque Config.openReads : InputLine → Bool
/-- The 10 body bytes of a SET DONE frame: the spec gives the fields and the length, not the layout (log 8). -/
opaque Config.setDoneBody : SetNumber → Nat → SetOutcome → Nat → BitVec 80
/-- The 4 body bytes of a TABLE frame: the spec gives the fields and the length, not the layout (log 8). -/
opaque Config.tableBody : TableName → TableOutcome → Tag → BitVec 32
/-- The 96 body bytes of a STATUS frame: the spec gives the fields and the length, not the layout (log 8). -/
opaque Config.statusBody : StatusSnapshot → BitVec 768

end Sys2Proof
end

