-- ==== Sys2Proof/Machine/State.lean ====
section
/-! DEFINITION. The state of the part, block by block as section 3.1 of the scope file lists the blocks, with the
queue of waiting commands; the reasons a command can stop; and the machine right after reset. -/

namespace Sys2Proof.Machine

/-! ## Travel Counters and Edge Capture -/

/-- What the Travel Counters keep for one segment (R1), and the levels of its two phase lines (R2). -/
structure Counter where
  position : Pos
  fraction : Nat
  debt     : Nat
  nominal  : Option Nat
  trim     : Int
  phaseA   : Bool
  phaseB   : Bool
deriving DecidableEq, Repr

/-- The three segments' counters. -/
structure Counters where
  main   : Counter
  duplex : Counter
  belt   : Counter
deriving DecidableEq, Repr

/-- A pending raw edge: its direction (true is to BLOCKED) and its raw position (R8). -/
structure PendingEdge where
  blocked : Bool
  raw     : Pos
deriving DecidableEq, Repr

/-- What Edge Capture keeps for one station: line state, confirmed level and pending raw edge; true is BLOCKED (R8). -/
structure StationState where
  line  : Bool
  level : Bool
  edge  : Option PendingEdge
deriving DecidableEq, Repr

/-- The event a block wants when a passage point is reached (R5). -/
inductive PointEvent where
  | debounce (station : Station)
  | pitch
  | seamWatch
  | feedStart (sheet : SheetId)
  | release
  | gateClose
  | leadDeadline (sheet : SheetId)
  | trailDeadline (sheet : SheetId)
  | settle (sheet : SheetId)
deriving DecidableEq, Repr

/-- A passage point placed on a segment; reached is set at the carry that passes it, or at its placing, and the point's event
then stands at the front of State.pending (R5). -/
structure Point where
  segment  : Segment
  position : Pos
  event    : PointEvent
  reached  : Bool
deriving DecidableEq, Repr

/-! ## Record Intake, the order queue and the set registry -/

/-- A frame in the receive buffer, from its sync byte on; broken marks one that was cut short or lost a byte, and
headless one whose lost byte was its sync byte (R179, R181). -/
structure Frame where
  bytes    : List Byte
  broken   : Bool
  headless : Bool
deriving DecidableEq, Repr

/-- The frame being collected: the bytes stored, the number of bytes that arrived, the body length once its byte
has come, and whether the frame has lost a byte, and its sync byte (R179, R181). -/
structure Collecting where
  bytes    : List Byte
  arrived  : Nat
  bodyLen  : Option Nat
  broken   : Bool
  headless : Bool
deriving DecidableEq, Repr

/-- The receive buffer: the whole frames in arrival order, the one being collected (none while hunting), and the gap, the ms
since the last byte of a frame arrived, counted until it is longer than a frame survives (R179). -/
structure Receiver where
  frames     : List Frame
  collecting : Option Collecting
  gap        : Nat
deriving DecidableEq, Repr

/-- The SHEET record's fields (R23, R184). -/
structure SheetRecord where
  tag   : Tag
  sheet : SheetId
  last  : Bool
  media : Fin 16
  side1 : Handle
  side2 : Option Handle
deriving DecidableEq, Repr

/-- The mark of an open load (section 9.2.1). -/
inductive LoadMark where
  | clean | badField | badLocked
deriving DecidableEq, Repr

/-- The load buffer of a STATION, SEGMENT or BELT load; a MEDIA load's buffer is the inactive bank itself (R154). -/
inductive LoadBuffer where
  | media
  | station (entries : Vector (Option StationEntry) 14)
  | segment (main duplex : Option SegmentEntry)
  | belt (entry : Option BeltEntry)
deriving DecidableEq, Repr

/-- An open load; wroteMain and wroteDuplex say which segment entries the load has written (R17). -/
structure Load where
  buffer      : LoadBuffer
  remaining   : Nat
  mark        : LoadMark
  wroteMain   : Bool
  wroteDuplex : Bool
deriving DecidableEq, Repr

/-- Record Intake: the receive buffer, the SHEET record that holds the link, and the load state (R38, R154, R179). -/
structure Intake where
  rx   : Receiver
  held : Option SheetRecord
  load : Option Load
deriving DecidableEq, Repr

/-- An order in the order queue (R23). -/
structure Order where
  tag   : Tag
  sheet : SheetId
  last  : Bool
  media : Fin 16
  gen   : Bank
  side1 : Handle
  side2 : Option Handle
deriving DecidableEq, Repr

/-- A registry entry (R41). -/
structure SetEntry where
  set         : SetNumber
  attempt     : Nat
  ownFailures : Nat
  state       : SetState
  ordered     : Nat
  committed   : Nat
  collected   : Nat
  reason      : Option SpoilReason
  drained     : Bool
  failing     : Bool
deriving DecidableEq, Repr

/-! ## Table Store -/

/-- The tables, the media banks with their generations and reference counts, and the locks (R153, R163, R165, R166).
The station, segment and belt tables are each defined as a whole or undefined as a whole. -/
structure TableStore where
  bank0        : Vector (Option MediaEntry) 16
  bank1        : Vector (Option MediaEntry) 16
  active       : Bank
  inactive     : BankState
  refs0        : Nat
  refs1        : Nat
  station      : Option (Vector StationEntry 14)
  segment      : Option SegmentTable
  belt         : Option BeltEntry
  mediaLocks   : Vector LockState 16
  stationLocks : Vector LockState 14
deriving DecidableEq, Repr

/-! ## Pitch Scheduler, Sheet Tracker and Shelf Controller -/

/-- A pitch ring entry (R74). -/
structure RingEntry where
  pitch   : Nat
  tag     : Tag
  sheet   : SheetId
  handle  : Option Handle
  release : Pos
deriving DecidableEq, Repr

/-- The five clutch lines; true is engaged (R76). -/
structure Clutches where
  d1    : Bool
  d2    : Bool
  d3    : Bool
  d4    : Bool
  shelf : Bool
deriving DecidableEq, Repr

/-- The Pitch Scheduler (R62, R71, R74, R76, R79, R112, R177). seam is the seam reference S, present while SYNCED.
The pitch point, the seam watch point, feed starts, the release point and the gate close point are passage points
of State.points. -/
structure Scheduler where
  seam        : Option Pos
  nextPitch   : Nat
  ring        : List RingEntry
  gap1        : Nat
  gap2        : Nat
  reservation : Nat
  blanks      : Nat
  gateOpen    : Bool
  clutches    : Clutches
deriving DecidableEq, Repr

/-- A pending trail: its station, its deadline and the lead's confirmed position (R93). -/
structure TrailPending where
  station  : Station
  deadline : Pos
  lead     : Pos
deriving DecidableEq, Repr

/-- A tracking entry (R83). -/
structure Track where
  tag          : Tag
  sheet        : SheetId
  last         : Bool
  media        : Fin 16
  gen          : Bank
  source       : Source
  pass         : Pass
  side2        : Option Handle
  state        : SheetState
  next         : Option Station
  expected     : Option Pos
  leadDeadline : Option Pos
  trimStart    : Option Pos
  released     : Option Pos
  trail        : Option TrailPending
  measured     : Option Int
  spoiled      : Option SpoilReason
  dest         : Destination
  lastPassed   : Option Station
deriving DecidableEq, Repr

/-- The diverter's state (R98). -/
inductive Diverter where
  | free
  | set (sheet : SheetId)
  | busy (sheet : SheetId)
deriving DecidableEq, Repr

/-- The Sheet Tracker: tracking table, diverter state and diverter line (R83, R98). -/
structure Tracker where
  table    : List Track
  diverter : Diverter
  line     : DiverterLine
deriving DecidableEq, Repr

/-- A shelf entry: the sheet it refers to and its settled flag; its settle point is in State.points (R111). -/
structure ShelfEntry where
  sheet   : SheetId
  settled : Bool
deriving DecidableEq, Repr

/-! ## Collator Controller -/

/-- An element of the collected list (R123). -/
structure Collected where
  tag   : Tag
  sheet : SheetId
  last  : Bool
deriving DecidableEq, Repr

/-- The running collator timer: the ms counted and the timeout it was started with (R127). -/
structure CollatorTimer where
  elapsed : Nat
  timeout : Nat
deriving DecidableEq, Repr

/-- The Collator Controller (R121 to R123, R127). -/
structure Collator where
  mode  : CollatorMode
  held  : Option HeldSet
  list  : List Collected
  timer : Option CollatorTimer
  push  : Bool
  dump  : Bool
deriving DecidableEq, Repr

/-! ## Path Controller and Report Unit -/

/-- The stop record (R146). -/
structure StopRecord where
  cause     : StopCause
  station   : Option Station
  named     : Option NamedSheet
  deviation : Option Int
deriving DecidableEq, Repr

/-- The Path Controller (R135 to R137, R144, R146, R148). drives is the level of the three drive run lines, which
are driven together. -/
structure PathControl where
  state        : PathState
  runActive    : Bool
  params       : Option RunParams
  drives       : Bool
  stopUpstream : Bool
  stopCollator : Bool
  stopPanel    : Bool
  faultStop    : Bool
  stopRecord   : Option StopRecord
  silence      : Nat
deriving DecidableEq, Repr

/-- The Report Unit (R167, R168, R172, R175); condition i is bit i of the latch and of the mask. -/
structure ReportUnit where
  latch   : BitVec 16
  mask    : BitVec 16
  queue   : List Report
  timeTag : Tag
deriving DecidableEq, Repr

/-! ## Lines and links -/

/-- The input lines that are read as levels and have no row of their own, at the levels read last; controller ready is
true where it is asserted (R118, R121, R181, R183; log 4). -/
structure InputLines where
  drawers         : DrawerLines
  shelfEmpty      : Wire
  collatorReady   : Wire
  controllerReady : Bool
deriving DecidableEq, Repr

/-- The output lines of the part at their levels: the three drive run lines, the clutches 1 to 5, the registration gate,
the diverter's two lines in the order of R183's code, and the collator's push and dump lines. -/
structure OutputLines where
  driveMain   : Wire
  driveDuplex : Wire
  driveBelt   : Wire
  clutch1     : Wire
  clutch2     : Wire
  clutch3     : Wire
  clutch4     : Wire
  clutch5     : Wire
  gate        : Wire
  diverterA   : Wire
  diverterB   : Wire
  push        : Wire
  dump        : Wire
deriving DecidableEq, Repr

/-- The imager link: the inbound bytes hunting has in hand, and the frames sent to the imaging unit, oldest
first (R182). -/
structure ImagerLink where
  rx  : List Byte
  out : List (List Byte)
deriving DecidableEq, Repr

/-! ## The whole -/

/-- The state of the part. pending is the queue of waiting commands, first in first out; the passage events that a command
brings about go to its front (R5; log 3). orderOut (with the imager link's out) is the model's own record of the frames the
part has sent (log 18). -/
structure State where
  pending  : List Instr
  inputs   : InputLines
  intake   : Intake
  orders   : List Order
  registry : List SetEntry
  tables   : TableStore
  counters : Counters
  stations : Vector StationState 14
  points   : List Point
  sched    : Scheduler
  tracker  : Tracker
  shelf    : List ShelfEntry
  collator : Collator
  path     : PathControl
  report   : ReportUnit
  imager   : ImagerLink
  orderOut : List (List Byte)
deriving DecidableEq, Repr

/-- Reasons to stop with a fault. There are none: the spec gives every command an effect in every state, and an
undefined value is a free value (logs 7 and 8). Safe: nothing is cut short. -/
inductive Fault where
deriving DecidableEq, Repr

/-- Reasons to refuse a command. -/
inductive Refusal where
  /-- Raised by an arm of exec whose command has no meaning yet. Safe: the model stops where the part goes on. -/
  | notModelled (mnemonic : String)
deriving DecidableEq, Repr

/-! ## Reset -/

/-- A segment's counter after reset: position, fraction, debt and trim 0, nominal scale undefined (R6); the
phase lines low (log 5). -/
def Counter.reset : Counter :=
  { position := 0, fraction := 0, debt := 0, nominal := none, trim := 0, phaseA := false, phaseB := false }

/-- A station after reset: the level equal to the line, no pending edge (R15); the line CLEAR (log 5). -/
def StationState.reset : StationState := { line := false, level := false, edge := none }

/-- The Table Store after reset: everything undefined, bank 0 ACTIVE, bank 1 FREE, nothing locked (R153, R163, R166). -/
def TableStore.reset : TableStore :=
  { bank0 := Vector.replicate 16 none, bank1 := Vector.replicate 16 none, active := .bank0, inactive := .free
    refs0 := 0, refs1 := 0, station := none, segment := none, belt := none
    mediaLocks := Vector.replicate 16 .unlocked, stationLocks := Vector.replicate 14 .unlocked }

/-- Every clutch released (R76). -/
def Clutches.released : Clutches := { d1 := false, d2 := false, d3 := false, d4 := false, shelf := false }

/-- The Pitch Scheduler after reset (R62, R82, R120, R177). -/
def Scheduler.reset : Scheduler :=
  { seam := none, nextPitch := 0, ring := [], gap1 := 0, gap2 := 0, reservation := 0, blanks := 0
    gateOpen := false, clutches := Clutches.released }

/-- The Sheet Tracker after reset (R110). -/
def Tracker.reset : Tracker := { table := [], diverter := .free, line := .prg }

/-- The Collator Controller after reset (R134). -/
def Collator.reset : Collator :=
  { mode := .empty, held := none, list := [], timer := none, push := false, dump := false }

/-- The Path Controller after reset with no stop line asserted (R152; the lines' levels are log 5). -/
def PathControl.reset : PathControl :=
  { state := .idle, runActive := false, params := none, drives := false, stopUpstream := false
    stopCollator := false, stopPanel := false, faultStop := false, stopRecord := none, silence := 0 }

/-- The Report Unit after reset: latch clear, mask all set, queue empty, time tag 0 (R168, R171, R175, R178). -/
def ReportUnit.reset : ReportUnit := { latch := 0, mask := 0xFFFF, queue := [], timeTag := 0 }

/-- The level-read input lines after reset (log 5): paper in every drawer, an empty shelf tray, the collator and
the print controller ready. -/
def InputLines.reset : InputLines :=
  { drawers := { d1 := .low, d2 := .low, d3 := .low, d4 := .low }, shelfEmpty := .high
    collatorReady := .low, controllerReady := true }

/-- The receive buffer after reset: empty, hunting (R181); no gap counted (log 29). -/
def Receiver.reset : Receiver := { frames := [], collecting := none, gap := 0 }

/-- The machine right after reset (R6, R15, R37, R58, R82, R110, R120, R134, R152, R153, R171, R178, R181). -/
def State.reset : State :=
  { pending := [], inputs := InputLines.reset
    intake := { rx := Receiver.reset, held := none, load := none }
    orders := [], registry := [], tables := TableStore.reset
    counters := { main := Counter.reset, duplex := Counter.reset, belt := Counter.reset }
    stations := Vector.replicate 14 StationState.reset, points := [], sched := Scheduler.reset
    tracker := Tracker.reset, shelf := [], collator := Collator.reset, path := PathControl.reset
    report := ReportUnit.reset, imager := { rx := [], out := [] }, orderOut := [] }

end Sys2Proof.Machine
end

