-- ==== Sys2Proof/Machine/Operands.lean ====
section
/-! DEFINITION. The operand forms: travel arithmetic, the identities of stations and sources, bytes and frames
of the links, the bodies of the records (R184) and of the reports. -/

namespace Sys2Proof.Machine

/-! ## Positions (scope file, section 5.2) -/

/-- The travel difference of a over b. -/
def travelDiff (a b : Pos) : Int := ((a.toNat : Int) - (b.toNat : Int) + 524288) % 1048576 - 524288

/-- Position p has passed point x: the travel difference of p over x is 0 or more. -/
def passed (p x : Pos) : Bool := decide (0 ≤ travelDiff p x)

/-- "P plus d": (P + d) mod 2^20. -/
def plus (p : Pos) (d : Int) : Pos := p + BitVec.ofInt 20 d

/-! ## Stations, sources and conditions -/

/-- A station's id, 0 to 13. -/
def stationId : Station → Fin 14
  | .d1x => 0 | .d2x => 1 | .d3x => 2 | .d4x => 3 | .shx => 4 | .reg => 5 | .xfr => 6
  | .fus => 7 | .div => 8 | .out => 9 | .prg => 10 | .dxe => 11 | .inv => 12 | .dxs => 13

/-- The station of an id; none above 13. -/
def stationOfId : Nat → Option Station
  | 0 => some .d1x | 1 => some .d2x | 2 => some .d3x | 3 => some .d4x | 4 => some .shx | 5 => some .reg
  | 6 => some .xfr | 7 => some .fus | 8 => some .div | 9 => some .out | 10 => some .prg | 11 => some .dxe
  | 12 => some .inv | 13 => some .dxs | _ => none

/-- The station of an id of the fourteen. -/
def stationAt : Fin 14 → Station
  | 0 => .d1x | 1 => .d2x | 2 => .d3x | 3 => .d4x | 4 => .shx | 5 => .reg | 6 => .xfr
  | 7 => .fus | 8 => .div | 9 => .out | 10 => .prg | 11 => .dxe | 12 => .inv | 13 => .dxs

/-- A station's segment (scope file, 4.3). -/
def stationSegment : Station → Segment
  | .dxe | .inv | .dxs => .duplex
  | .d1x | .d2x | .d3x | .d4x | .shx | .reg | .xfr | .fus | .div | .out | .prg => .main

/-- Lead-and-trail stations (R12). -/
def bothEdges : Station → Bool
  | .xfr | .fus | .div | .out | .prg | .dxe => true
  | .d1x | .d2x | .d3x | .d4x | .shx | .reg | .inv | .dxs => false

/-- A source's exit station. -/
def sourceExit : Source → Station
  | .drawer .d1 => .d1x
  | .drawer .d2 => .d2x
  | .drawer .d3 => .d3x
  | .drawer .d4 => .d4x
  | .shelf => .shx

/-- The five sources. -/
def allSources : List Source := [.drawer .d1, .drawer .d2, .drawer .d3, .drawer .d4, .shelf]

/-- The drawer a drawer number 1 to 4 names. -/
def drawerOfNumber : Nat → Option Drawer
  | 1 => some .d1 | 2 => some .d2 | 3 => some .d3 | 4 => some .d4 | _ => none

/-! ## The senses of the input lines (R183) -/

/-- The level at which an input line is asserted; for a sensor, BLOCKED (R183). -/
def assertedLevel : InputLine → Wire
  | .sensor _ | .seamMark | .collatorReady | .collatorDone => .low
  | .drawerEmpty _ | .shelfEmpty | .stop _ | .collatorFault => .high

/-- What an open circuit reads as: drawer empty, stop and fault lines asserted, other lines a free value (R183; log 32). -/
def openAsserts : InputLine → Bool
  | .drawerEmpty _ | .stop _ | .collatorFault => true
  | .sensor st => Config.openReads (.sensor st)
  | .seamMark => Config.openReads .seamMark
  | .shelfEmpty => Config.openReads .shelfEmpty
  | .collatorReady => Config.openReads .collatorReady
  | .collatorDone => Config.openReads .collatorDone

/-- An input line at a level is asserted (R183). -/
def asserted (line : InputLine) (w : Wire) : Bool :=
  match w with
  | .open => openAsserts line
  | .low => decide (assertedLevel line = .low)
  | .high => decide (assertedLevel line = .high)

/-- A drawer-empty line's level. -/
def drawerWire (l : DrawerLines) : Drawer → Wire
  | .d1 => l.d1 | .d2 => l.d2 | .d3 => l.d3 | .d4 => l.d4

/-- A drawer's line says that it is empty (R69, R183). -/
def drawerEmpty (l : DrawerLines) (d : Drawer) : Bool := asserted (.drawerEmpty d) (drawerWire l d)

/-- The other media bank. -/
def otherBank : Bank → Bank
  | .bank0 => .bank1
  | .bank1 => .bank0

/-- What a change of an encoder's two phase lines is (R2). -/
inductive PhaseChange where
  | none | forward | reverse | error
deriving DecidableEq, Repr

/-- R2: a change of exactly one line is a count, forward when it leaves A leading B; of both, a phase error.
With A leading, the levels run low-low, high-low, high-high, low-high (DEDUCED, log 20). -/
def phaseChange (a b a' b' : Bool) : PhaseChange :=
  if a = a' then
    if b = b' then .none else if b' = a then .forward else .reverse
  else if b = b' then (if a' = b then .reverse else .forward) else .error

/-! ## Bytes (section 11: most significant byte first) -/

/-- The number a run of bytes spells, most significant byte first. -/
def beNat (bs : List Byte) : Nat := bs.foldl (fun n b => 256 * n + b.toNat) 0

/-- The two's complement number a run of bytes spells. -/
def beInt (bs : List Byte) : Int :=
  if beNat bs < 2 ^ (8 * bs.length - 1) then (beNat bs : Int) else (beNat bs : Int) - 2 ^ (8 * bs.length)

/-- The bytes of a field of a body: its offset and size. -/
def fieldBytes (body : List Byte) (offset size : Nat) : List Byte := (body.drop offset).take size

/-- A field of a body read as a number. -/
def fieldNat (body : List Byte) (offset size : Nat) : Nat := beNat (fieldBytes body offset size)

/-- A field of a body read in two's complement. -/
def fieldInt (body : List Byte) (offset size : Nat) : Int := beInt (fieldBytes body offset size)

/-- Bit i of a flags byte. -/
def flagBit (body : List Byte) (offset i : Nat) : Bool := (fieldNat body offset 1).testBit i

/-- A number as k bytes, most significant first. -/
def natBytes : Nat → Nat → List Byte
  | 0, _ => []
  | k + 1, n => BitVec.ofNat 8 (n / 256 ^ k) :: natBytes k n

/-- A signed number as k bytes in two's complement, most significant first. -/
def intBytes (k : Nat) (n : Int) : List Byte := natBytes k (n % (256 ^ k : Int)).toNat

/-- One bit step of the cyclic check with generator x^16 + x^12 + x^5 + 1 (R179). -/
def crcBit (c : BitVec 16) : BitVec 16 :=
  if c.msb then (c <<< 1) ^^^ 0x1021 else c <<< 1

/-- One byte of the cyclic check. -/
def crcByte (c : BitVec 16) (b : Byte) : BitVec 16 :=
  crcBit (crcBit (crcBit (crcBit (crcBit (crcBit (crcBit (crcBit (c ^^^ (b.setWidth 16 <<< 8)))))))))

/-- The 16-bit cyclic check of R179: initial value FFFF, no reflection, no final inversion. -/
def crc16 (bs : List Byte) : BitVec 16 := bs.foldl crcByte 0xFFFF

/-- The two check bytes of a run of bytes. -/
def checkBytes (bs : List Byte) : List Byte := natBytes 2 (crc16 bs).toNat

/-! ## Frames of the order link (R179, R184) -/

/-- The sync byte of the order link. -/
def orderSync : Byte := 0xA5

/-- The frame of a record: sync byte, header (kind, body length, tag), body, check. -/
def recordFrame (kind : Byte) (tag : Tag) (body : List Byte) : List Byte :=
  let checked := kind :: BitVec.ofNat 8 body.length :: (natBytes 2 tag.toNat ++ body)
  orderSync :: (checked ++ checkBytes checked)

/-- A frame all of whose bytes have come. -/
def wholeFrame (bytes : List Byte) : Frame := { bytes := bytes, broken := false, headless := false }

/-- The check of a frame holds: it was not marked broken, and its last two bytes are the check over the header
and body (R179). -/
def frameGood (f : Frame) : Bool :=
  let inner := f.bytes.drop 1
  let n := inner.length - 2
  !f.broken && decide (6 ≤ inner.length) && decide (inner.drop n = checkBytes (inner.take n))

/-- What a frame whose check holds says: its kind, its tag and its body (R179, R180). -/
def frameFields (f : Frame) : Option (Byte × Tag × List Byte) :=
  match f.bytes with
  | _ :: kind :: _ :: t₁ :: t₀ :: rest =>
    if frameGood f then some (kind, BitVec.ofNat 16 (beNat [t₁, t₀]), rest.take (rest.length - 2)) else none
  | _ => none

/-- The bytes that stand in the receive buffer. -/
def receiverUsed (rx : Receiver) : Nat :=
  (rx.frames.map (fun f => f.bytes.length)).sum + (rx.collecting.map (fun c => c.bytes.length)).getD 0

/-- The byte is taken while a frame is being collected (R179, R181). -/
def collectByte (full : Bool) (b : Byte) (c : Collecting) : Collecting :=
  { c with
    bytes := if full then c.bytes else c.bytes ++ [b]
    arrived := c.arrived + 1
    bodyLen := if c.arrived = 2 then some b.toNat else c.bodyLen
    broken := c.broken || full }

/-- A frame's collection begins with its sync byte, which a full buffer discards (R179, R181). -/
def collectStart (full : Bool) (b : Byte) : Collecting :=
  { bytes := if full then [] else [b], arrived := 1, bodyLen := none, broken := full, headless := full }

/-- The frame a collection has become. -/
def collectedFrame (c : Collecting) : Frame := { bytes := c.bytes, broken := c.broken, headless := c.headless }

/-- A frame is complete when its sync byte, header, body and check have arrived. -/
def collectDone (c : Collecting) : Bool :=
  match c.bodyLen with
  | some n => decide (c.arrived = n + 7)
  | none => false

/-- One byte on the inward side: hunting discards what is not A5; a byte of a frame, its sync byte among them, that finds
the buffer full is discarded and marks its frame broken; a complete frame joins the frames. The gap counts from each byte of
a frame (R179, R181; log 9). -/
def receiveByte (rx : Receiver) (b : Byte) : Receiver :=
  let full := decide (receiveCapacity ≤ receiverUsed rx)
  match rx.collecting with
  | none => if b = orderSync then { rx with collecting := some (collectStart full b), gap := 0 } else rx
  | some c =>
    let c' := collectByte full b c
    if collectDone c' then { frames := rx.frames ++ [collectedFrame c'], collecting := none, gap := 0 }
    else { rx with collecting := some c', gap := 0 }

/-- A gap of more than 2 ms inside a frame: the partial frame joins the frames marked broken (R179). -/
def receiveGap (rx : Receiver) : Receiver :=
  match rx.collecting with
  | none => rx
  | some c =>
    { frames := rx.frames ++ [{ collectedFrame c with broken := true }], collecting := none, gap := longestGap + 1 }

/-- The gap has come to so many ms: one longer than 2 ms ends a frame being collected (R179). -/
def receiveGapAt (g : Nat) (rx : Receiver) : Receiver := { (if longestGap < g then receiveGap rx else rx) with gap := g }

/-- d ms pass on the inward side: the gap counts them, and is counted no further once it is longer than 2 ms (R179). -/
def receiveElapse (d : Nat) (rx : Receiver) : Receiver :=
  if rx.gap ≤ longestGap then receiveGapAt (min (rx.gap + d) (longestGap + 1)) rx else rx

/-- Bytes arriving one after another. -/
def receiveBytes (rx : Receiver) (bs : List Byte) : Receiver := bs.foldl receiveByte rx

/-- Bytes of the buffer judged again, with the cut where the frame they belonged to was broken (log 10). -/
def rescanBytes (rx : Receiver) (bs : List Byte) (broken : Bool) : Receiver :=
  if broken then receiveGap (receiveBytes rx bs) else receiveBytes rx bs

/-- A later frame of the buffer met again: while hunting it is found as it stands; inside a frame that the bytes before it
have begun, its bytes are that frame's (log 10). -/
def rescanFrame (rx : Receiver) (f : Frame) : Receiver :=
  match rx.collecting with
  | none => { rx with frames := rx.frames ++ [f] }
  | some _ => rescanBytes rx f.bytes f.broken

/-- The frame being collected met again, in the same way (log 10). -/
def rescanPartial (rx : Receiver) (c : Collecting) : Receiver :=
  match rx.collecting with
  | none => { rx with collecting := some c }
  | some _ => rescanBytes rx c.bytes c.broken

/-- The bytes of a failed frame that follow its sync byte: all of them where that byte was lost (R179). -/
def bytesAfterSync (f : Frame) : List Byte := if f.headless then f.bytes else f.bytes.drop 1

/-- Judging resumes at the byte after the failed frame's sync byte, and the frames found from there on replace
those the buffer held; the gap since the last byte is what it was, and ends a frame left unfinished (R179; log 10). -/
def rescan (failed : Frame) (rest : List Frame) (collecting : Option Collecting) (gap : Nat) : Receiver :=
  let afterFailed := rescanBytes Receiver.reset (bytesAfterSync failed) failed.broken
  let afterRest := rest.foldl rescanFrame afterFailed
  receiveGapAt gap (match collecting with
    | none => afterRest
    | some c => rescanPartial afterRest c)

/-- The kind codes of the inward side (R180). -/
def recordKindCode : RecordKind → Byte
  | .sheet => 0x01 | .startRun => 0x02 | .halt => 0x03 | .resume => 0x04 | .endRun => 0x05
  | .pathCleared => 0x06 | .runReset => 0x07 | .query => 0x08 | .clearConditions => 0x09 | .setMask => 0x0A
  | .lock => 0x0B | .setTrim => 0x0C | .loadBegin => 0x0D | .loadEntry => 0x0E | .loadCommit => 0x0F
  | .loadAbort => 0x10

/-- The record kind of a kind code; none names the others (R180). -/
def recordKindOf : Nat → Option RecordKind
  | 1 => some .sheet | 2 => some .startRun | 3 => some .halt | 4 => some .resume | 5 => some .endRun
  | 6 => some .pathCleared | 7 => some .runReset | 8 => some .query | 9 => some .clearConditions | 10 => some .setMask
  | 11 => some .lock | 12 => some .setTrim | 13 => some .loadBegin | 14 => some .loadEntry | 15 => some .loadCommit
  | 16 => some .loadAbort | _ => none

/-- A kind code names a record kind of the inward side: 01 to 10 hexadecimal (R180). -/
def kindKnown (kind : Byte) : Bool := decide (1 ≤ kind.toNat ∧ kind.toNat ≤ 16)

/-! ## Record bodies (R184) -/

/-- A well-formed SHEET body: 16 bytes, SEQUENCE IN SET not 0, MEDIA CODE at most 15 (R24). -/
def parseSheet (tag : Tag) (body : List Byte) : Option SheetRecord :=
  if body.length = 16 ∧ fieldNat body 5 1 ≠ 0 ∧ fieldNat body 7 1 ≤ 15 then
    some
      { tag := tag
        sheet := { set := BitVec.ofNat 32 (fieldNat body 0 4), attempt := fieldNat body 4 1, seq := fieldNat body 5 1 }
        last := flagBit body 6 0
        media := Fin.ofNat 16 (fieldNat body 7 1)
        side1 := BitVec.ofNat 32 (fieldNat body 8 4)
        side2 := if flagBit body 6 1 then some (BitVec.ofNat 32 (fieldNat body 12 4)) else none }
  else none

/-- The SHEET body of a record, its SIDE-2 HANDLE field zero when the record has no back-side image (R184). -/
def sheetBody (r : SheetRecord) : List Byte :=
  natBytes 4 r.sheet.set.toNat ++ natBytes 1 r.sheet.attempt ++ natBytes 1 r.sheet.seq
    ++ natBytes 1 ((if r.last then 1 else 0) + (if r.side2.isSome then 2 else 0))
    ++ natBytes 1 r.media.val ++ natBytes 4 r.side1.toNat ++ natBytes 4 (r.side2.getD 0).toNat

/-- RUN MODE codes (R184). -/
def runModeOf : Nat → Option RunMode
  | 1 => some .simplex | 2 => some .duplex | _ => none

/-- SEQUENCE POLICY codes (R184). -/
def policyOf : Nat → Option Policy
  | 1 => some .strict | 2 => some .relaxed | _ => none

/-- A START RUN body of 5 bytes whose mode and policy are named, its numbers not yet judged (R138). -/
def parseStartRun (body : List Byte) : Option RunParams :=
  if body.length = 5 then
    match runModeOf (fieldNat body 0 1), policyOf (fieldNat body 1 1) with
    | some m, some p => some { mode := m, policy := p, setGap := fieldNat body 2 1, timeout := fieldNat body 3 2 }
    | _, _ => none
  else none

/-- The START RUN body of run parameters (R184). -/
def startRunBody (p : RunParams) : List Byte :=
  (match p.mode with | .simplex => 1 | .duplex => 2) :: (match p.policy with | .strict => 1 | .relaxed => 2)
    :: (natBytes 1 p.setGap ++ natBytes 2 p.timeout)

/-- A 2-byte set of conditions (R184). -/
def parseConditions (body : List Byte) : Option (BitVec 16) :=
  if body.length = 2 then some (BitVec.ofNat 16 (fieldNat body 0 2)) else none

/-- LOCK operation codes (R184). -/
def lockOpOf : Nat → Option LockOp
  | 1 => some .lock | 2 => some .unlock | 3 => some .lockDown | _ => none

/-- TABLE codes of LOAD BEGIN; a LOCK record names only the first two (R184). -/
def tableOf : Nat → Option TableName
  | 1 => some .media | 2 => some .station | 3 => some .segment | 4 => some .belt | _ => none

/-- The operation byte of an UNLOCK (R184). -/
def unlockByte : Byte := 0x02

/-- The operation byte of a LOCK DOWN (R184). -/
def lockDownByte : Byte := 0x03

/-- A table a LOCK record may name: MEDIA or STATION (R166). -/
def lockTableOf : Nat → Option TableName
  | 1 => some .media | 2 => some .station | _ => none

/-- A LOCK body of 3 bytes with its operation and table named, its index not yet judged (R166). -/
def parseLock (body : List Byte) : Option (LockOp × TableName × Nat) :=
  if body.length = 3 then
    match lockOpOf (fieldNat body 0 1), lockTableOf (fieldNat body 1 1) with
    | some o, some t => some (o, t, fieldNat body 2 1)
    | _, _ => none
  else none

/-- SEGMENT codes of SET TRIM (R184). -/
def trimSegmentOf : Nat → Option Segment
  | 0 => some .main | 1 => some .duplex | _ => none

/-- A SET TRIM body of 3 bytes with its segment named, its value not yet judged (R20). -/
def parseSetTrim (body : List Byte) : Option (Segment × Int) :=
  if body.length = 3 then (trimSegmentOf (fieldNat body 0 1)).map (fun g => (g, fieldInt body 1 2)) else none

/-- A LOAD BEGIN body of 2 bytes with its table named, its count not yet judged (R154). -/
def parseLoadBegin (body : List Byte) : Option (TableName × Nat) :=
  if body.length = 2 then (tableOf (fieldNat body 0 1)).map (fun t => (t, fieldNat body 1 1)) else none

/-- A MEDIA entry's fields, judged by R156: none where one is out of range, some none for an undefined entry. -/
def parseMediaEntry (body : List Byte) : Option (Option MediaEntry) :=
  if flagBit body 1 0 then
    match drawerOfNumber (fieldNat body 2 1) with
    | some d =>
      if 2400 ≤ fieldNat body 3 2 ∧ fieldNat body 3 2 ≤ 8000 ∧ 10 ≤ fieldNat body 5 2 ∧ fieldNat body 5 2 ≤ 400 then
        some (some { drawer := d, length := fieldNat body 3 2, tolerance := fieldNat body 5 2, duplexPermitted := flagBit body 1 1 })
      else none
    | none => none
  else some none

/-- A STATION entry's fields, judged by R156. -/
def parseStationEntry (body : List Byte) : Option StationEntry :=
  if fieldNat body 1 3 ≤ 262143 ∧ -63 ≤ fieldInt body 4 1 ∧ fieldInt body 4 1 ≤ 63
      ∧ 8 ≤ fieldNat body 5 2 ∧ fieldNat body 5 2 ≤ 2047 ∧ fieldNat body 7 1 ≤ 31 ∧ fieldNat body 8 2 ≤ 20000 then
    some { position := fieldNat body 1 3, latency := fieldInt body 4 1, window := fieldNat body 5 2
           debounce := fieldNat body 7 1, aux := fieldNat body 8 2 }
  else none

/-- A SEGMENT entry's fields, judged by R156. -/
def parseSegmentEntry (body : List Byte) : Option SegmentEntry :=
  match stationOfId (fieldNat body 3 1), stationOfId (fieldNat body 4 1) with
  | some a, some b =>
    if 1024 ≤ fieldNat body 1 2 ∧ fieldNat body 1 2 ≤ 16383 ∧ fieldNat body 5 1 ≤ 63 then
      some { scale := fieldNat body 1 2, trimA := a, trimB := b, deadband := fieldNat body 5 1, autoTrim := flagBit body 6 0 }
    else none
  | _, _ => none

/-- A BELT entry's fields, judged by R156. -/
def parseBeltEntry (body : List Byte) : Option BeltEntry :=
  if 1024 ≤ fieldNat body 1 2 ∧ fieldNat body 1 2 ≤ 16383
      ∧ 20000 ≤ fieldNat body 3 3 ∧ fieldNat body 3 3 ≤ 250000
      ∧ 4 ≤ fieldNat body 6 1 ∧ fieldNat body 6 1 ≤ 12
      ∧ 3000 ≤ fieldNat body 7 2 ∧ fieldNat body 7 2 ≤ 12000
      ∧ fieldNat body 9 2 ≤ fieldNat body 7 2
      ∧ 8 ≤ fieldNat body 11 2 ∧ fieldNat body 11 2 ≤ 511
      ∧ 1000 ≤ fieldNat body 13 3 ∧ fieldNat body 13 3 ≤ 84000
      ∧ 50 ≤ fieldNat body 16 2 ∧ fieldNat body 16 2 ≤ 2000
      ∧ 200 ≤ fieldNat body 18 2 ∧ fieldNat body 18 2 ≤ 2000 then
    some { scale := fieldNat body 1 2, revolution := fieldNat body 3 3, pitches := fieldNat body 6 1
           pitchLength := fieldNat body 7 2, seamOffset := fieldNat body 9 2, seamTolerance := fieldNat body 11 2
           writeToRelease := fieldNat body 13 3, stagingMargin := fieldNat body 16 2, clearance := fieldNat body 18 2 }
  else none

/-! ## Codes and bodies of the reports (R184) -/

/-- Condition indices (R167). -/
def conditionIndex : Condition → Nat
  | .jam => 0 | .beltSlip => 1 | .collatorFault => 2 | .externalStop => 3 | .spoil => 4 | .setFailed => 5
  | .imageFault => 6 | .refused => 7 | .loadSequence => 8 | .loadDiscarded => 9 | .trimLimit => 10
  | .drawerEmpty => 11 | .reportBacklog => 12 | .reportLost => 13 | .halted => 14 | .reprintPending => 15

/-- Stop cause codes. -/
def stopCauseCode : StopCause → Nat
  | .leadEarly => 1 | .leadOverdue => 2 | .trailOverdue => 3 | .overlap => 4 | .collatorOverrun => 5
  | .collatorFault => 6 | .beltSlip => 7 | .externalStop => 8 | .resetWithPaper => 9

/-- Refusal codes. -/
def refusalCodeNumber : RefusalCode → Nat
  | .badFrame => 1 | .badField => 2 | .noRun => 3 | .unknownMedia => 4 | .duplexNotPermitted => 5
  | .setTooLong => 6 | .badSequence => 7 | .interleaved => 8 | .attemptTooHigh => 9
  | .reprintNotRequested => 10 | .outOfSequence => 11 | .wrongState => 12 | .outOfRange => 13 | .locked => 14
  | .tablesBusy => 15 | .tablesIncomplete => 16 | .notClear => 17 | .conditionsSet => 18 | .noLoad => 19

/-- Path state codes. -/
def pathStateCode : PathState → Nat
  | .idle => 1 | .running => 2 | .halting => 3 | .halted => 4 | .stopped => 5

/-- Spoil reason codes. -/
def spoilReasonCode : SpoilReason → Nat
  | .length => 1 | .image => 2 | .stranded => 3 | .order => 4 | .cascade => 5

/-- Report kind codes (R180). -/
def reportKindCode : ReportBody → Byte
  | .setDone .. => 0x81 | .reprint .. => 0x82 | .jam .. => 0x83 | .alert .. => 0x84
  | .refusal .. => 0x85 | .table .. => 0x86 | .path .. => 0x87 | .status _ => 0x88

/-- The 8 bytes of a stranded element; an absent last station passed is sent as FF. -/
def strandedBytes (e : StrandedSheet) : List Byte :=
  natBytes 2 e.tag.toNat ++ natBytes 4 e.set.toNat ++ natBytes 1 e.seq
    ++ [match e.lastPassed with | some st => BitVec.ofNat 8 (stationId st).val | none => 0xFF]

/-- The body bytes of a report; those of SET DONE, TABLE and STATUS are free values of the stated length (log 8). -/
def reportBytes : ReportBody → List Byte
  | .setDone set attempt outcome sheets => natBytes 10 (Config.setDoneBody set attempt outcome sheets).toNat
  | .reprint set attempt reason own =>
    natBytes 4 set.toNat ++ natBytes 1 attempt ++ natBytes 1 ((reason.map spoilReasonCode).getD 0) ++ natBytes 1 own
  | .jam cause station sheetTag deviation stranded =>
    natBytes 1 (stopCauseCode cause)
      ++ natBytes 1 ((if station.isSome then 1 else 0) + (if sheetTag.isSome then 2 else 0) + (if deviation.isSome then 4 else 0))
      ++ natBytes 1 ((station.map (fun st => (stationId st).val)).getD 0) ++ natBytes 2 (sheetTag.getD 0).toNat
      ++ intBytes 4 (deviation.getD 0) ++ natBytes 1 stranded.length ++ stranded.flatMap strandedBytes
  | .alert condition latch => natBytes 1 (conditionIndex condition) ++ natBytes 2 latch.toNat
  | .refusal tag kind code =>
    natBytes 2 (tag.getD 0).toNat ++ [(kind.map recordKindCode).getD 0] ++ natBytes 1 (refusalCodeNumber code)
  | .table table outcome tag => natBytes 4 (Config.tableBody table outcome tag).toNat
  | .path state active => natBytes 1 (pathStateCode state) ++ [if active then 1 else 0]
  | .status snapshot => natBytes 96 (Config.statusBody snapshot).toNat

/-- The outward frame of a report: sync byte, report header (kind, body length, time tag), body, check (R181, R184). -/
def reportFrame (r : Report) : List Byte := recordFrame (reportKindCode r.body) r.timeTag (reportBytes r.body)

/-! ## Frames of the imager link (R182) -/

/-- The sync byte of the imager link. -/
def imagerSync : Byte := 0x5A

/-- A 9-byte imager frame: sync byte, type, pitch index, handle, check over type, pitch and handle. -/
def imagerFrame (kind pitch : Byte) (handle : Handle) : List Byte :=
  let checked := kind :: pitch :: natBytes 4 handle.toNat
  imagerSync :: (checked ++ checkBytes checked)

/-- The IMAGE WRITE frame (type 01). -/
def imageWriteFrame (pitch : Nat) (handle : Handle) : List Byte := imagerFrame 0x01 (BitVec.ofNat 8 pitch) handle

/-- The RING FLUSH frame (type 02), zero in the pitch and handle bytes. -/
def ringFlushFrame : List Byte := imagerFrame 0x02 0 0

/-- The IMAGE FAULT frame (type 81). -/
def imageFaultFrame (pitch : Byte) (handle : Handle) : List Byte := imagerFrame 0x81 pitch handle

/-- The pitch index and handle an inbound frame names: it is nine bytes from a sync byte, its check holds and its
type is 81. -/
def faultOf (frame : List Byte) : Option (Byte × Handle) :=
  match frame with
  | s :: k :: p :: rest =>
    if s = imagerSync ∧ k = 0x81 ∧ rest.length = 6 ∧ rest.drop 4 = checkBytes (k :: p :: rest.take 4) then
      some (p, BitVec.ofNat 32 (beNat (rest.take 4)))
    else none
  | _ => none

/-- Hunting on the imager link over the bytes in hand: bytes before a sync byte are discarded; nine bytes from one
are a frame, taken as an IMAGE FAULT or discarded, and after a discarded frame hunting resumes at the byte
following its sync byte (R182). It gives the faults found, in order, and the bytes left in hand. fuel is at least
the number of bytes. -/
def imagerScan : Nat → List Byte → List (Byte × Handle) × List Byte
  | 0, bs => ([], bs)
  | _, [] => ([], [])
  | fuel + 1, b :: bs =>
    if b ≠ imagerSync then imagerScan fuel bs
    else if bs.length < 8 then ([], b :: bs)
    else
      match faultOf (b :: bs.take 8) with
      | some f =>
        let r := imagerScan fuel (bs.drop 8)
        (f :: r.1, r.2)
      | none => imagerScan fuel bs

end Sys2Proof.Machine
end

