-- ==== Sys2Proof/WellFormed.lean ====
section
/-! DEFINITION. Well-formed commands: the terms of Instr that stand for a command the spec's table has. A record's
body may be malformed (the part then refuses it); what is ruled out is a term that is no command of its row. -/

namespace Sys2Proof

/-- The body length of a record fits its header's byte (R184). -/
def bodyFits (body : List Byte) : Bool := decide (body.length ≤ 255)

/-- The identity of a sheet that an accepted order can carry (R24, R32, scope file section 6). -/
def sheetFits (id : SheetId) : Bool := decide (id.attempt ≤ 255 ∧ 1 ≤ id.seq ∧ id.seq ≤ 64)

/-- Nine bytes from a sync byte that are no good IMAGE FAULT (R182). -/
def discardedFrame (frame : List Byte) : Bool :=
  decide (frame.length = 9 ∧ frame.head? = some Machine.imagerSync) && (Machine.faultOf frame).isNone

/-- The body of a LOCK_DOWN or UNLOCK record is not given under LOCK (R166). -/
def lockBodyFits (body : List Byte) : Bool :=
  bodyFits body && decide (body.head? ≠ some 0x02 ∧ body.head? ≠ some 0x03)

/-- The command is well formed. -/
def WellFormed : Instr → Bool
  | .powerOnReset _ => true
  | .sheet _ body => bodyFits body
  | .heldSheetRetry => true
  | .startRun _ body _ _ => bodyFits body
  | .halt _ body => bodyFits body
  | .resume _ body _ => bodyFits body
  | .endRun _ body => bodyFits body
  | .pathCleared _ body _ _ => bodyFits body
  | .runReset _ body _ => bodyFits body
  | .query _ body => bodyFits body
  | .clearConditions _ body => bodyFits body
  | .setMask _ body => bodyFits body
  | .lock _ body => lockBodyFits body
  | .unlock _ rest => decide (rest.length ≤ 254)
  | .lockDown _ rest => decide (rest.length ≤ 254)
  | .setTrim _ body => bodyFits body
  | .loadBegin _ body => bodyFits body
  | .loadEntry _ body => bodyFits body
  | .loadCommit _ body => bodyFits body
  | .loadAbort _ body => bodyFits body
  | .unknownKindRecord kind _ body => bodyFits body && !Machine.kindKnown kind
  | .badFrame => true
  | .interByteGap => true
  | .reportTransmit _ => true
  | .imageFault _ _ => true
  | .imagerFrameDiscard frame => discardedFrame frame
  | .forwardCount _ => true
  | .reverseCount _ => true
  | .phaseError _ => true
  | .sensorChange _ => true
  | .debouncePointReached _ => true
  | .seamMark _ => true
  | .seamWatchPoint => true
  | .pitchCommitEvent _ => true
  | .feedStart sheet => sheetFits sheet
  | .release => true
  | .gateClosePoint => true
  | .leadDeadline sheet => sheetFits sheet
  | .trailDeadline sheet => sheetFits sheet
  | .settlePoint sheet => sheetFits sheet
  | .stopLineAsserted _ => true
  | .stopLineReleased _ => true
  | .collatorDone => true
  | .collatorFaultLine => true
  | .collatorTimerExpiry => true
  | .atRest => true
  | .orderLinkByte _ => true

end Sys2Proof
end

