-- ==== Sys2Proof/Decode.lean ====
section
/-! DEFINITION. The commands a word of the table's bits spells. No row of spec/opcode_table.json gives bits, so no
word spells a command. -/

namespace Sys2Proof

/-- The command that the nbits bits of w spell; the table gives bits to no row, so none. -/
def decodeTableWord (_nbits _w : Nat) : Option Instr := none

end Sys2Proof
end

