-- ==== Sys2Proof/Machine/Flags.lean ====
section
/-! DEFINITION. The flags of the part: the bits of the condition latch and of the report mask (R167, R168), the
conditions that keep RESUME from being taken (R142), the stop-source set (R144) and at rest (R148). -/

namespace Sys2Proof.Machine

/-- Bit i of a 16-bit set stands for condition i (R184). -/
def conditionBit (c : Condition) : BitVec 16 := 1#16 <<< (conditionIndex c)

/-- Condition c is in a 16-bit set. -/
def hasCondition (set : BitVec 16) (c : Condition) : Bool := set.getLsbD (conditionIndex c)

/-- A 16-bit set with condition c added. -/
def addCondition (set : BitVec 16) (c : Condition) : BitVec 16 := set ||| conditionBit c

/-- A 16-bit set with the conditions of another taken out (R170). -/
def clearNamed (set named : BitVec 16) : BitVec 16 := set &&& ~~~named

/-- A condition that keeps RESUME in HALTED from being taken is latched (R142). -/
def stopConditionLatched (latch : BitVec 16) : Bool :=
  hasCondition latch .jam || hasCondition latch .beltSlip || hasCondition latch .collatorFault
    || hasCondition latch .externalStop

/-- A line stop source is active (R144). -/
def lineStopActive (p : PathControl) : Bool := p.stopUpstream || p.stopCollator || p.stopPanel

/-- The stop-source set is active: at least one member is (R144). -/
def stopSetActive (p : PathControl) : Bool := lineStopActive p || p.faultStop

/-- The machine is at rest (R148). -/
def atRest (p : PathControl) : Bool := decide (restSilence ≤ p.silence)

/-- The path is RUNNING or HALTING. -/
def pathMoving (p : PathControl) : Bool := decide (p.state = .running ∨ p.state = .halting)

/-- A registry state in which a set can be spoiled: OPEN, SEALED or DELIVERING (R44). -/
def setLive (st : SetState) : Bool := decide (st = .open ∨ st = .sealed ∨ st = .delivering)

/-- A registry state of a withdrawn set: SPOILED, FAILED or AWAITING_REPRINT (R25, R128). -/
def setWithdrawn (st : SetState) : Bool := decide (st = .spoiled ∨ st = .failed ∨ st = .awaitingReprint)

/-- The set has a committed sheet (R43). -/
def hasCommitted (e : SetEntry) : Bool := decide ((e.state = .open ∨ e.state = .sealed) ∧ 0 < e.committed)

/-- The set has uncommitted sheets (R43). -/
def hasUncommitted (e : SetEntry) : Bool :=
  decide (e.state = .open ∨ (e.state = .sealed ∧ e.committed < e.ordered))

/-! ## The output lines (R183) -/

/-- The level of an output line whose meaning is its high level. -/
def highWhen (on : Bool) : Wire := if on then .high else .low

/-- The level of an output line whose meaning is its low level. -/
def lowWhen (on : Bool) : Wire := if on then .low else .high

/-- The diverter's two lines: low, low is PRG; high, low is OUT; low, high is DXE (R183). -/
def diverterWires : DiverterLine → Wire × Wire
  | .prg => (.low, .low)
  | .out => (.high, .low)
  | .dxe => (.low, .high)

/-- The levels at which the part drives its output lines: drive run, clutches and gate high when run, engaged or open,
push and dump low when commanded (R183). -/
def outputLines (s : State) : OutputLines :=
  { driveMain := highWhen s.path.drives, driveDuplex := highWhen s.path.drives, driveBelt := highWhen s.path.drives
    clutch1 := highWhen s.sched.clutches.d1, clutch2 := highWhen s.sched.clutches.d2
    clutch3 := highWhen s.sched.clutches.d3, clutch4 := highWhen s.sched.clutches.d4
    clutch5 := highWhen s.sched.clutches.shelf, gate := highWhen s.sched.gateOpen
    diverterA := (diverterWires s.tracker.line).1, diverterB := (diverterWires s.tracker.line).2
    push := lowWhen s.collator.push, dump := lowWhen s.collator.dump }

/-! ## The level-read input lines -/

/-- The shelf-empty line is asserted (R118, R183). -/
def shelfEmptyRead (s : State) : Bool := asserted .shelfEmpty s.inputs.shelfEmpty

/-- The collator's ready line is asserted (R121, R183). -/
def collatorReadyRead (s : State) : Bool := asserted .collatorReady s.inputs.collatorReady

end Sys2Proof.Machine
end

