-- ==== Sys2Proof/Machine/Ops.lean ====
section
/-! DEFINITION. The operations several blocks share: reports and conditions, passage points, reads of the tables,
media generation references, the drives, stopping and the fault stop, the halt test, and the passing of time. -/

/-- The place of a passage event among those one command brings about and the line changes that fall in the same travel: a free
value, since no rule gives the order in which they are taken; it may depend on the whole state they are brought about in (R5,
R92; log 33). -/
opaque Sys2Proof.Config.passageRank : Sys2Proof.Machine.State → Sys2Proof.Instr → Nat

/-- The level of an input line that a record's rule reads where the record's frame has waited in the receive buffer: a free
value, since it is the line's at the moment of the frame's turn (R179; log 6). -/
opaque Sys2Proof.Config.levelAtTurn : Sys2Proof.Machine.State → Sys2Proof.InputLine → Sys2Proof.Wire

namespace Sys2Proof.Machine

/-! ## Report Unit (R167 to R173, R176) -/

/-- A report joins the tail of the queue with the time tag; found full, it is discarded and REPORT_LOST latches. The
ALERT of that latching finds the queue full too, so nothing more comes of it (R172, R173). -/
def enqueueReport (b : ReportBody) (u : ReportUnit) : ReportUnit :=
  if u.queue.length < reportCapacity then { u with queue := u.queue ++ [⟨u.timeTag, b⟩] }
  else { u with latch := addCondition u.latch .reportLost }

/-- A condition is latched; going from clear to latched with its mask bit set queues its ALERT (R167, R169). -/
def latchCondition (c : Condition) (u : ReportUnit) : ReportUnit :=
  if hasCondition u.latch c then u
  else
    let u' := { u with latch := addCondition u.latch c }
    if hasCondition u.mask c then enqueueReport (.alert c u'.latch) u' else u'

/-- A block produces a report. -/
def sendReport (b : ReportBody) (s : State) : State := { s with report := enqueueReport b s.report }

/-- A block latches a condition. -/
def latch (c : Condition) (s : State) : State := { s with report := latchCondition c s.report }

/-- A record is refused: its REFUSAL is queued, then REFUSED latches (R176). -/
def refuse (tag : Option Tag) (kind : Option RecordKind) (code : RefusalCode) (s : State) : State :=
  latch .refused (sendReport (.refusal tag kind code) s)

/-! ## Travel Counters and passage points (R1, R5) -/

/-- The drawer-empty lines as a command finds them for a pitch commit event (R69; log 4). -/
def readDrawers (drawers : DrawerLines) (s : State) : State := { s with inputs := { s.inputs with drawers := drawers } }

/-- A segment's counter. -/
def counterOf (c : Counters) : Segment → Counter
  | .main => c.main | .duplex => c.duplex | .belt => c.belt

/-- A segment's counter replaced. -/
def setCounter (g : Segment) (k : Counter) (c : Counters) : Counters :=
  match g with
  | .main => { c with main := k } | .duplex => { c with duplex := k } | .belt => { c with belt := k }

/-- A segment's position. -/
def segPos (s : State) (g : Segment) : Pos := (counterOf s.counters g).position

/-- The effective scale E = N + T; absent while N is undefined (R1). -/
def effectiveScale (k : Counter) : Option Int := k.nominal.map (fun n => (n : Int) + k.trim)

/-- Every passage point whose event satisfies a test is removed. -/
def dropPoints (p : PointEvent → Bool) (s : State) : State :=
  { s with points := s.points.filter (fun q => !p q.event) }

/-- A passage point is removed. -/
def dropPoint (e : PointEvent) (s : State) : State := dropPoints (fun q => decide (q = e)) s

/-- A passage point is placed, replacing a point of the same event; one already passed is reached at once, and the command
that places it delivers its event (R5; withPassages). -/
def placePoint (g : Segment) (x : Pos) (e : PointEvent) (s : State) : State :=
  let s' := dropPoint e s
  { s' with points := s'.points ++ [⟨g, x, e, passed (segPos s g) x⟩] }

/-- The point of an event, if it is placed and has been reached. -/
def reachedPoint (e : PointEvent) (s : State) : Option Point :=
  s.points.find? (fun q => decide (q.event = e) && q.reached)

/-- After a carry of segment g the points it has passed are reached (R5). -/
def markReached (g : Segment) (p : Pos) (points : List Point) : List Point :=
  points.map (fun q => if q.segment = g ∧ passed p q.position = true then { q with reached := true } else q)

/-- The command that is a passage event: the step its owning block takes when the point is reached (R5). A pitch commit event
reads the drawer-empty lines (R69). -/
def passageCommand (drawers : DrawerLines) : PointEvent → Instr
  | .debounce station => .debouncePointReached station
  | .pitch => .pitchCommitEvent drawers
  | .seamWatch => .seamWatchPoint
  | .feedStart sheet => .feedStart sheet
  | .release => .release
  | .gateClose => .gateClosePoint
  | .leadDeadline sheet => .leadDeadline sheet
  | .trailDeadline sheet => .trailDeadline sheet
  | .settle sheet => .settlePoint sheet

/-- A command put into a list before the first of a higher rank. -/
def insertRanked (rank : Instr → Nat) (c : Instr) : List Instr → List Instr
  | [] => [c]
  | d :: ds => if rank c ≤ rank d then c :: d :: ds else d :: insertRanked rank c ds

/-- Commands put, each by its rank, among others that keep their order. -/
def inRankOrder (rank : Instr → Nat) (cs others : List Instr) : List Instr := cs.foldr (insertRanked rank) others

/-- The passage events of the points that are reached after an operation and did not stand so before it. -/
def passageEvents (before : List Point) (s : State) : List Instr :=
  (s.points.filter (fun q => q.reached && !decide (q ∈ before))).map (fun q => passageCommand s.inputs.drawers q.event)

/-- An operation at whose carry, or by whose placing, points are reached: their events are delivered, each as the owning
block's next step, before every command that waits but the line changes given, which fall in the same travel; the order in which
they are taken is free (R5, R92; logs 3 and 33). -/
def withPassagesAmong (lines : List Instr) (f : State → State) (s : State) : State :=
  let t := f s
  { t with pending := inRankOrder (Config.passageRank t) (passageEvents s.points t) lines ++ t.pending }

/-- The same, the events before every command that waits. -/
def withPassages (f : State → State) (s : State) : State := withPassagesAmong [] f s

/-- The command is a change of a sensor line or of the seam mark, which Edge Capture takes (R183). -/
def isLineChange : Instr → Bool
  | .sensorChange _ => true
  | .seamMark _ => true
  | _ => false

/-- The line changes at the front of the queue, up to n. -/
def linesAhead (n : Nat) (queue : List Instr) : List Instr := (queue.take n).takeWhile isLineChange

/-- The step of a passage event: its point is gone and the owning block acts on it. A point that has been removed since, or
was never reached, has no event (R5; log 3). -/
def deliver (e : PointEvent) (act : Point → State → State) (s : State) : State :=
  match reachedPoint e s with
  | none => s
  | some q => withPassages (act q) (dropPoint e s)

/-! ## The turn of a frame, and the retry of a held record (R39, R135, R179, R180) -/

/-- The command that is a record: the step its owning block takes (R180), the lines its rule reads at the levels given. -/
def recordCommand (level : InputLine → Wire) (kind : Byte) (tag : Tag) (body : List Byte) : Instr :=
  match recordKindOf kind.toNat with
  | none => .unknownKindRecord kind tag body
  | some .sheet => .sheet tag body
  | some .startRun => .startRun tag body (level .shelfEmpty) (level .collatorReady)
  | some .halt => .halt tag body
  | some .resume => .resume tag body (level .collatorReady)
  | some .endRun => .endRun tag body
  | some .pathCleared => .pathCleared tag body (level .shelfEmpty) (level .collatorReady)
  | some .runReset => .runReset tag body (level .shelfEmpty)
  | some .query => .query tag body
  | some .clearConditions => .clearConditions tag body
  | some .setMask => .setMask tag body
  | some .lock =>
    match body with
    | [] => .lock tag []
    | o :: rest =>
      if o = unlockByte then .unlock tag rest else if o = lockDownByte then .lockDown tag rest else .lock tag (o :: rest)
  | some .setTrim => .setTrim tag body
  | some .loadBegin => .loadBegin tag body
  | some .loadEntry => .loadEntry tag body
  | some .loadCommit => .loadCommit tag body
  | some .loadAbort => .loadAbort tag body

/-- The command that takes a frame in its turn: its record, or BAD_FRAME where its check fails (R179, R180). -/
def turnCommand (s : State) (f : Frame) : Instr :=
  match frameFields f with
  | some (kind, tag, body) => recordCommand (Config.levelAtTurn s) kind tag body
  | none => .badFrame

/-- The command that takes the frame at the head of the buffer, the link not held; none where there is no frame. -/
def turnDue (s : State) : List Instr :=
  match s.intake.held, s.intake.rx.frames with
  | none, f :: _ => [turnCommand s f]
  | _, _ => []

/-- The frame that has come to the head of the buffer has its turn: the command that takes it is the part's next step, before
every command that waits (R39, R179, R181; log 6). -/
def nextTurn (s : State) : State := { s with pending := turnDue s ++ s.pending }

/-- The receive buffer replaced. -/
def withReceiver (rx : Receiver) (s : State) : State := { s with intake := { s.intake with rx := rx } }

/-- Something happens on the inward side; a frame it puts at the head of an empty buffer has its turn (R179). -/
def arrive (f : Receiver → Receiver) (s : State) : State :=
  let t := withReceiver (f s.intake.rx) s
  { t with pending := (if s.intake.rx.frames = [] then turnDue t else []) ++ t.pending }

/-- What of the registry the events of a held record read: each entry's set and state (R39). -/
def registryStates (reg : List SetEntry) : List (SetNumber × SetState) := reg.map (fun e => (e.set, e.state))

/-- Between two states, while the link is held, an event has happened at which R39 runs the held record's checks again: the path
state or run-active flag has changed; or, the link held before too, an order has left the queue, or a registry entry has been
removed or has changed its state (R39, R135). -/
def holdEvent (before after : State) : Bool :=
  after.intake.held.isSome
    && (decide (after.path.state ≠ before.path.state ∨ after.path.runActive ≠ before.path.runActive)
      || (before.intake.held.isSome
        && decide (after.orders ≠ before.orders ∨ registryStates after.registry ≠ registryStates before.registry)))

/-- A step after which the held record's checks run again where its events call for it: the retry is the part's next step, before
every command that waits (R39, R40, R135; log 11). -/
def withRetry (f : State → State) (s : State) : State :=
  let t := f s
  { t with pending := (if holdEvent s t then [.heldSheetRetry] else []) ++ t.pending }

/-! ## Reads of the tables (R22, R153) -/

/-- A bank's entries. -/
def bankEntries (t : TableStore) : Bank → Vector (Option MediaEntry) 16
  | .bank0 => t.bank0 | .bank1 => t.bank1

/-- A bank's entries replaced. -/
def setBankEntries (b : Bank) (v : Vector (Option MediaEntry) 16) (t : TableStore) : TableStore :=
  match b with
  | .bank0 => { t with bank0 := v } | .bank1 => { t with bank1 := v }

/-- The media entry of a code in a generation's bank. -/
def mediaEntry (t : TableStore) (g : Bank) (code : Fin 16) : MediaEntry :=
  ((bankEntries t g)[code]).getD (Config.undefinedMedia g code)

/-- A station's entry. -/
def stationEntry (t : TableStore) (st : Station) : StationEntry :=
  match t.station with
  | some v => v[stationId st]
  | none => Config.undefinedStation st

/-- A segment's entry; BELT has none. -/
def segmentEntry (t : TableStore) (g : Segment) : SegmentEntry :=
  match t.segment, g with
  | some v, .main => v.main
  | some v, .duplex => v.duplex
  | _, g => Config.undefinedSegment g

/-- The belt entry. -/
def beltEntry (t : TableStore) : BeltEntry := t.belt.getD Config.undefinedBelt

/-- The run parameters. -/
def runParams (s : State) : RunParams := s.path.params.getD Config.absentParams

/-- pos(b) − pos(a). -/
def stationGap (t : TableStore) (a b : Station) : Int :=
  ((stationEntry t b).position : Int) - ((stationEntry t a).position : Int)

/-- The feed distance F of a source: its exit's pick lead plus pos(REG) − pos(exit) (R61). -/
def feedDistance (t : TableStore) (src : Source) : Int :=
  ((stationEntry t (sourceExit src)).aux : Int) + stationGap t (sourceExit src) .reg

/-! ## Media generation references (R165) -/

/-- The references to a generation. -/
def refsOf (t : TableStore) : Bank → Nat
  | .bank0 => t.refs0 | .bank1 => t.refs1

/-- The references to a generation replaced. -/
def setRefs (b : Bank) (n : Nat) (t : TableStore) : TableStore :=
  match b with
  | .bank0 => { t with refs0 := n } | .bank1 => { t with refs1 := n }

/-- A reference to a generation is added. -/
def addRef (b : Bank) (t : TableStore) : TableStore := setRefs b (refsOf t b + 1) t

/-- A reference is released; the RETIRING bank whose count reaches 0 becomes FREE (R165). -/
def releaseRef (b : Bank) (t : TableStore) : TableStore :=
  let t' := setRefs b (refsOf t b - 1) t
  if t'.inactive = .retiring ∧ b = otherBank t'.active ∧ refsOf t' b = 0 then { t' with inactive := .free } else t'

/-- References are released one after another. -/
def releaseRefs (bs : List Bank) (s : State) : State := { s with tables := bs.foldl (fun t b => releaseRef b t) s.tables }

/-! ## Edge Capture: resampling (R15) -/

/-- Every station acted on. -/
def mapStations (f : StationState → StationState) (v : Vector StationState 14) : Vector StationState 14 :=
  ⟨(v.toList.map f).toArray, by simp⟩

/-- The event is a debounce point's. -/
def isDebounce : PointEvent → Bool
  | .debounce _ => true
  | _ => false

/-- Every station is resampled: pending edges and their points removed, levels set to the lines (R15). -/
def resample (s : State) : State :=
  dropPoints isDebounce
    { s with stations := mapStations (fun k => { k with level := k.line, edge := none }) s.stations }

/-- All 14 stations read CLEAR in their line states (R8, R138, R149, R151). -/
def sensorsClear (s : State) : Bool := s.stations.toList.all (fun k => !k.line)

/-! ## The path and the drives (R62, R76, R135, R137) -/

/-- The PATH report of the path as it stands (R135). -/
def pathReport (s : State) : State := sendReport (.path s.path.state s.path.runActive) s

/-- The path state changes, without its report. -/
def withPathState (st : PathState) (s : State) : State := { s with path := { s.path with state := st } }

/-- The path state changes, and its PATH report is queued (R135). -/
def setPathState (st : PathState) (s : State) : State := pathReport (withPathState st s)

/-- The event is the pitch point's or the seam watch point's. -/
def isBeltPoint : PointEvent → Bool
  | .pitch => true
  | .seamWatch => true
  | _ => false

/-- The belt becomes UNSYNCED (R62). -/
def desync (s : State) : State :=
  dropPoints isBeltPoint { s with sched := { s.sched with seam := none, nextPitch := 0 } }

/-- The drives start (R137). -/
def driveStart (s : State) : State := desync { s with path := { s.path with drives := true } }

/-- The drives stop, and every clutch is released (R76, R137). -/
def driveStop (s : State) : State :=
  desync
    { s with
      path := { s.path with drives := false }
      sched := { s.sched with clutches := Clutches.released } }

/-- The stranded list of the tracking table, in table order (R109). -/
def strandedList (table : List Track) : List StrandedSheet :=
  table.map (fun e => { tag := e.tag, set := e.sheet.set, seq := e.sheet.seq, lastPassed := e.lastPassed })

/-- Every tracking entry becomes STRANDED (R109). -/
def strandAll (s : State) : State :=
  { s with tracker := { s.tracker with table := s.tracker.table.map (fun e => { e with state := .stranded }) } }

/-- The JAM report of a stop (R146). -/
def jamReport (r : StopRecord) (s : State) : ReportBody :=
  .jam r.cause r.station (r.named.map (fun n => n.tag)) r.deviation (strandedList s.tracker.table)

/-- The path enters STOPPED: drives, stranding, stop record, JAM report, PATH report, in this order (R146). -/
def enterStopped (r : StopRecord) (s : State) : State :=
  let s₁ := strandAll (driveStop s)
  let s₂ := { s₁ with path := { s₁.path with stopRecord := some r } }
  setPathState .stopped (sendReport (jamReport r s₂) s₂)

/-- The fault stop is raised; a path already STOPPED keeps its stop record and its report (R145). -/
def raiseFault (r : StopRecord) (s : State) : State :=
  let s' := { s with path := { s.path with faultStop := true } }
  if s.path.state = .stopped then s' else enterStopped r s'

/-- A jam: JAM latches and the fault stop is raised with its fields (R108). -/
def jam (cause : StopCause) (station : Station) (named : Option NamedSheet) (deviation : Option Int) (s : State) : State :=
  raiseFault { cause := cause, station := some station, named := named, deviation := deviation } (latch .jam s)

/-- The sheet a jam names, from its tracking entry. -/
def nameOf (e : Track) : NamedSheet := { tag := e.tag, sheet := e.sheet }

/-! ## The halt test (R141) -/

/-- The halt test's conditions. -/
def haltTestPasses (s : State) : Bool :=
  s.registry.all (fun e => !(hasCommitted e && hasUncommitted e)) && s.tracker.table.isEmpty && s.sched.ring.isEmpty
    && decide (s.collator.mode = .empty)

/-- A halt completes: HALTED, drives stopped, HALTED latched, PATH report (R141, R169). DESIGN CHOICE: the diverter stays as it is;
where it is still BUSY, its DIV trail unconfirmed, RESUME does not find it FREE (R98, R102; log 36). -/
def haltNow (s : State) : State := pathReport (latch .halted (driveStop (withPathState .halted s)))

/-- The halt test, made while the path is HALTING (R141). -/
def haltTest (s : State) : State := if s.path.state = .halting ∧ haltTestPasses s = true then haltNow s else s

/-- What of the registry the halt test's events read: each entry's set, state and counts. -/
def registryView (reg : List SetEntry) : List (SetNumber × SetState × Nat × Nat × Nat) :=
  reg.map (fun e => (e.set, e.state, e.ordered, e.committed, e.collected))

/-- Between two states, an event at which R141 makes the halt test has happened: a tracking entry removed, a ring
entry released, a registry entry's state or counts changed or an entry removed, the collator become EMPTY. -/
def haltEvent (before after : State) : Bool :=
  decide (after.tracker.table.length < before.tracker.table.length)
    || decide (after.sched.ring.length < before.sched.ring.length)
    || decide (registryView after.registry ≠ registryView before.registry)
    || decide (before.collator.mode ≠ .empty ∧ after.collator.mode = .empty)

/-- A step followed by the halt test its events call for, made on the step's whole outcome (R141; log 12). -/
def withHaltTest (f : State → State) (s : State) : State :=
  if haltEvent s (f s) then haltTest (f s) else f s

/-! ## Time (R127, R148, R175) -/

/-- The timer after d ms. -/
def timerElapse (d : Nat) (t : CollatorTimer) : CollatorTimer := { t with elapsed := t.elapsed + d }

/-- d ms are counted by the time tag, the silence measure, a running collator timer and the gap on the order link, which may end
a frame (R127, R148, R175, R179). -/
def elapse (d : Nat) (s : State) : State :=
  arrive (receiveElapse d) { s with
    report := { s.report with timeTag := s.report.timeTag + BitVec.ofNat 16 d }
    path := { s.path with silence := s.path.silence + d }
    collator := { s.collator with timer := s.collator.timer.map (timerElapse d) } }

end Sys2Proof.Machine
end

