-- ==== Sys2Proof/Machine/SetOps.lean ====
section
/-! DEFINITION. The operations on sets: the Set Registry's spoil, cascade, stranding, drain and resolution (R44 to
R52), and the Collator Controller's push, dump and fault (R126, R128, R130), which they call on. -/

namespace Sys2Proof.Machine

/-! ## The registry's list -/

/-- The entry of a set number. -/
def findSet (n : SetNumber) (reg : List SetEntry) : Option SetEntry := reg.find? (fun e => decide (e.set = n))

/-- The entry of a set number changed, in its place. -/
def updateSet (n : SetNumber) (f : SetEntry → SetEntry) (s : State) : State :=
  { s with registry := s.registry.map (fun e => if e.set = n then f e else e) }

/-- The entry of a set number removed. -/
def removeSet (n : SetNumber) (s : State) : State :=
  { s with registry := s.registry.filter (fun e => decide (e.set ≠ n)) }

/-- The entries younger than a set, in registry order. -/
def younger (n : SetNumber) (reg : List SetEntry) : List SetEntry := (reg.dropWhile (fun e => decide (e.set ≠ n))).drop 1

/-- The entries older than a set, in registry order. -/
def older (n : SetNumber) (reg : List SetEntry) : List SetEntry := reg.takeWhile (fun e => decide (e.set ≠ n))

/-- The set numbers of the entries that can still be spoiled. -/
def liveNumbers (reg : List SetEntry) : List SetNumber := (reg.filter (fun e => setLive e.state)).map (fun e => e.set)

/-- The run's policy is STRICT. -/
def strict (s : State) : Bool := decide ((runParams s).policy = .strict)

/-! ## Collator: commands and conditions (R121, R126 to R128) -/

/-- The collator holds a set number in a mode other than EMPTY. -/
def collatorHolds (n : SetNumber) (c : Collator) : Bool :=
  decide (c.mode ≠ .empty) && (match c.held with | some h => decide (h.set = n) | none => false)

/-- A started timer, with the stored collator timeout (R127). -/
def startedTimer (s : State) : Option CollatorTimer := some { elapsed := 0, timeout := (runParams s).timeout }

/-- A dump is issued (R128). -/
def issueDump (s : State) : State :=
  { s with collator := { s.collator with mode := .dumping, dump := true, timer := startedTimer s } }

/-- The dump condition (R128). -/
def dumpCondition (s : State) : Bool :=
  match s.collator.held with
  | none => false
  | some h =>
    decide (s.collator.mode = .collecting)
      && (match findSet h.set s.registry with | some e => setWithdrawn e.state | none => false)
      && !(s.tracker.table.any (fun e => decide (e.sheet.set = h.set ∧ e.sheet.attempt = h.attempt ∧ e.dest = .out)))

/-- The dump condition is tested, and the dump issued where it holds. -/
def testDump (s : State) : State := if dumpCondition s then issueDump s else s

/-- The push condition (R126). -/
def pushCondition (s : State) : Bool :=
  match s.collator.held with
  | none => false
  | some h =>
    decide (s.collator.mode = .collecting)
      && (match findSet h.set s.registry with
          | some e => decide (e.state = .sealed ∧ e.attempt = h.attempt)
          | none => false)
      && decide (s.collator.list.map (fun c => c.sheet) =
          (List.range s.collator.list.length).map (fun i => { set := h.set, attempt := h.attempt, seq := i + 1 }))
      && (match s.collator.list.getLast? with | some c => c.last | none => false)

/-- A push is issued, and the held set moves from SEALED to DELIVERING (R55, R126). -/
def issuePush (s : State) : State :=
  let s' := { s with collator := { s.collator with mode := .pushing, push := true, timer := startedTimer s } }
  match s.collator.held with
  | some h => updateSet h.set (fun e => { e with state := .delivering }) s'
  | none => s'

/-- After a trail at OUT: the push condition, then the dump condition (R125). -/
def testPushDump (s : State) : State := if pushCondition s then issuePush s else testDump s

/-- The collator is told that a set has been spoiled (R46, R128). -/
def spoilNotice (n : SetNumber) (s : State) : State :=
  if s.collator.mode = .collecting ∧ s.collator.held.map (fun h => h.set) = some n then testDump s else s

/-- The command lines deasserted, the timer stopped, the list emptied, EMPTY (R123, R129). -/
def collatorEmptied (c : Collator) : Collator :=
  { c with mode := .empty, held := none, list := [], timer := none, push := false, dump := false }

/-- The collator faults, unless it is FAULTED (R130). -/
def collatorFault (s : State) : State :=
  if s.collator.mode = .faulted then s
  else
    raiseFault { cause := .collatorFault, station := some .out, named := none, deviation := none }
      (latch .collatorFault
        { s with collator := { s.collator with mode := .faulted, timer := none, push := false, dump := false } })

/-! ## Withdrawal (R44 to R47) -/

/-- The entry of a set that is withdrawn: SPOILED, its reason, its attempt raised (or, at 255, the failing flag),
its own failure counted and the failing flag set at the third (R44, R45). -/
def withdrawnEntry (reason : SpoilReason) (own : Bool) (e : SetEntry) : SetEntry :=
  let own' := e.ownFailures + (if own then 1 else 0)
  { e with
    state := .spoiled
    reason := some reason
    drained := false
    attempt := if e.attempt < 255 then e.attempt + 1 else e.attempt
    ownFailures := own'
    failing := e.failing || decide (255 ≤ e.attempt) || (own && decide (3 ≤ own')) }

/-- The orders of a set leave the queue and release their references (R37, R165). -/
def removeOrders (n : SetNumber) (s : State) : State :=
  releaseRefs ((s.orders.filter (fun o => decide (o.sheet.set = n))).map (fun o => o.gen))
    { s with orders := s.orders.filter (fun o => decide (o.sheet.set ≠ n)) }

/-- A sheet's spoiled flag is set; a flag already set keeps its reason (R97). -/
def flagTrack (reason : SpoilReason) (e : Track) : Track :=
  { e with spoiled := match e.spoiled with | some r => some r | none => some reason }

/-- The tracking entries of a set are flagged (R46). -/
def flagSet (n : SetNumber) (reason : SpoilReason) (s : State) : State :=
  { s with tracker := { s.tracker with
      table := s.tracker.table.map (fun e => if e.sheet.set = n then flagTrack reason e else e) } }

/-- One set's printing is withdrawn: entry, orders, SPOIL, flags, notice to the collator (R44, R46). -/
def withdrawSet (reason : SpoilReason) (own : Bool) (n : SetNumber) (s : State) : State :=
  spoilNotice n (flagSet n reason (latch .spoil (removeOrders n (updateSet n (withdrawnEntry reason own) s))))

/-- Several sets are withdrawn by a cascade, in the order given (R47). -/
def cascade (ns : List SetNumber) (s : State) : State := ns.foldl (fun s n => withdrawSet .cascade false n s) s

/-! ## Draining and resolution (R49 to R52) -/

/-- No sheet of the set is in the tracking table, on the shelf or in the collator (R49). -/
def nothingLeft (n : SetNumber) (s : State) : Bool :=
  s.tracker.table.all (fun e => decide (e.sheet.set ≠ n)) && s.shelf.all (fun e => decide (e.sheet.set ≠ n))
    && !collatorHolds n s.collator

/-- A drained set's own resolution: failure, REPRINT, or held behind an older SPOILED set (R50, R52). -/
def resolveOne (n : SetNumber) (s : State) : State :=
  match findSet n s.registry with
  | none => s
  | some e =>
    if e.failing then
      latch .setFailed (sendReport (.setDone n e.attempt .failed 0)
        (updateSet n (fun e => { e with state := .failed, drained := true }) s))
    else if strict s = false ∨ (older n s.registry).all (fun o => decide (o.state ≠ .spoiled)) = true then
      updateSet n (fun e => { e with state := .awaitingReprint })
        (latch .reprintPending (sendReport (.reprint n e.attempt e.reason e.ownFailures) s))
    else s

/-- The walk over younger sets after an entry has left SPOILED: held entries are resolved; it stops at the first
SPOILED entry that has not drained (R51). -/
def heldWalk : List SetNumber → State → State
  | [], s => s
  | n :: ns, s =>
    match findSet n s.registry with
    | none => heldWalk ns s
    | some e =>
      if e.state = .spoiled then
        if e.drained then heldWalk ns (resolveOne n s) else s
      else heldWalk ns s

/-- In STRICT, the walk from a set that has left SPOILED; nothing where it has not (R51). -/
def walkFrom (n : SetNumber) (s : State) : State :=
  match findSet n s.registry with
  | none => s
  | some e =>
    if strict s = true ∧ e.state ≠ .spoiled then heldWalk ((younger n s.registry).map (fun e => e.set)) s else s

/-- The drain check of a set, and what follows where it has drained (R49, R50). -/
def drainCheck (n : SetNumber) (s : State) : State :=
  match findSet n s.registry with
  | none => s
  | some e =>
    if e.state = .spoiled ∧ e.drained = false ∧ nothingLeft n s = true then
      walkFrom n (resolveOne n (updateSet n (fun e => { e with drained := true }) s))
    else s

/-- Drain checks one after another. -/
def drainChecks (ns : List SetNumber) (s : State) : State := ns.foldl (fun s n => drainCheck n s) s

/-- The reason counts an own failure (R45). -/
def ownReason : SpoilReason → Bool
  | .length | .image | .order => true
  | .stranded | .cascade => false

/-- A spoil handed to the registry: withdrawal, cascade, drain checks; a set that is not OPEN, SEALED or DELIVERING
is left as it is (R44, R47). -/
def spoilSet (reason : SpoilReason) (n : SetNumber) (s : State) : State :=
  match findSet n s.registry with
  | none => s
  | some e =>
    if setLive e.state then
      let young := if strict s then liveNumbers (younger n s.registry) else []
      drainChecks (n :: young) (cascade young (withdrawSet reason (ownReason reason) n s))
    else s

/-- The stranding of a recovery: the handed sets that can be spoiled, in registry order; one cascade from the oldest
of them; then the drain checks, in registry order (R45, R48). named is the set of the sheet the stop named. The cascade takes
every younger set that can be spoiled, also the one that a FAULTED collator, not ready, holds: that R47 and R48 prevail there over
R132's "stays in the registry as R130 left it" is the model's reading (log 35, DEDUCED). -/
def strandSets (handed : List SetNumber) (named : Option SetNumber) (s : State) : State :=
  let handed' := handed ++ named.toList
  let hit := (liveNumbers s.registry).filter (fun n => decide (n ∈ handed'))
  let s₁ := hit.foldl (fun s n => withdrawSet .stranded (decide (named = some n)) n s) s
  let young := match hit with
    | oldest :: _ => if strict s then liveNumbers (younger oldest s₁.registry) else []
    | [] => []
  let s₂ := cascade young s₁
  drainChecks ((s₂.registry.map (fun e => e.set)).filter (fun n => decide (n ∈ handed' ∨ n ∈ young))) s₂

end Sys2Proof.Machine
end

