-- ==== Sys2Proof/Machine/SheetOps.lean ====
section
/-! DEFINITION. The Sheet Tracker's operations: expected positions and deadlines, the judgement of leads and trails,
trim samples, the diverter, the shelf's arrival and the exits (R18, R19, R76, R77, R85 to R107, R114, R124, R125). -/

namespace Sys2Proof.Machine

/-! ## The tracking table -/

/-- The entry of a sheet. -/
def findTrack (id : SheetId) (table : List Track) : Option Track := table.find? (fun e => decide (e.sheet = id))

/-- The entry of a sheet changed, in its place. -/
def updateTrack (id : SheetId) (f : Track → Track) (s : State) : State :=
  { s with tracker := { s.tracker with table := s.tracker.table.map (fun e => if e.sheet = id then f e else e) } }

/-- The entry of a sheet removed from the table. -/
def removeTrack (id : SheetId) (s : State) : State :=
  { s with tracker := { s.tracker with table := s.tracker.table.filter (fun e => decide (e.sheet ≠ id)) } }

/-- Of two positions, the first is earlier in travel, or equal. -/
def noLater (a b : Pos) : Bool := decide (0 ≤ travelDiff b a)

/-- Of the entries with a position, the one whose position is earliest in travel; of equal ones the first (R89). -/
def earliest (pos : Track → Option Pos) : List Track → Option Track
  | [] => none
  | e :: es =>
    match pos e, earliest pos es with
    | none, r => r
    | some _, none => some e
    | some x, some r =>
      match pos r with
      | some y => if noLater x y then some e else some r
      | none => some e

/-! ## Expected positions and deadlines (R86, R87) -/

/-- The lead deadline of an expected position at a station: X + w + H (R87). -/
def leadDeadlineAt (t : TableStore) (st : Station) (x : Pos) : Pos :=
  plus x ((stationEntry t st).window + (stationEntry t st).debounce : Nat)

/-- An entry expects its lead at a station and position, with its deadline and the deadline's point (R86, R87). -/
def expectLead (id : SheetId) (st : Station) (x : Pos) (s : State) : State :=
  let dl := leadDeadlineAt s.tables st x
  placePoint (stationSegment st) dl (.leadDeadline id)
    (updateTrack id (fun e => { e with next := some st, expected := some x, leadDeadline := some dl }) s)

/-- An entry expects no lead (R91's table, where it gives no next station). -/
def expectNothing (id : SheetId) (s : State) : State :=
  updateTrack id (fun e => { e with next := none, expected := none, leadDeadline := none }) s

/-! ## Trim (R18, R19) -/

/-- The step of an automatic trim for an error e: |e| divided by 4, plus 1, at most 16 (R19). -/
def trimStep (e : Int) : Int := min 16 ((e.natAbs / 4 : Nat) + 1)

/-- The trim an error moves a trim to, before the clamp (R19). -/
def trimMoved (t e : Int) : Int := if 0 < e then t - trimStep e else t + trimStep e

/-- A trim clamped to −512 to +511 (R19). -/
def trimClamp (t : Int) : Int := max (-512) (min 511 t)

/-- A trim sample for a segment: the travel measured between the pair's leads against their distance (R19). -/
def trimSample (g : Segment) (qa qb : Pos) (s : State) : State :=
  let entry := segmentEntry s.tables g
  if pathMoving s.path = true ∧ entry.autoTrim = true then
    let e := travelDiff qb qa - stationGap s.tables entry.trimA entry.trimB
    if e.natAbs ≤ entry.deadband then s
    else
      let k := counterOf s.counters g
      let moved := trimMoved k.trim e
      let s' := { s with counters := setCounter g { k with trim := trimClamp moved } s.counters }
      if moved < -512 ∨ 511 < moved then latch .trimLimit s' else s'
  else s

/-- At an on-time lead: the trim start recorded at the pair's first station; at its second, the sample handed on for
an unspoiled sheet, and the trim start removed (R18). -/
def trimAtLead (e : Track) (st : Station) (q : Pos) (s : State) : State :=
  let g := stationSegment st
  let entry := segmentEntry s.tables g
  if st = entry.trimA then updateTrack e.sheet (fun e => { e with trimStart := some q }) s
  else if st = entry.trimB then
    match e.trimStart with
    | none => s
    | some qa =>
      let s' := updateTrack e.sheet (fun e => { e with trimStart := none }) s
      if e.spoiled = none then trimSample g qa q s' else s'
  else s

/-! ## Trails (R93) -/

/-- The trail deadline: Q + length + tolerance + w + H, the length being the measured one when present (R93). -/
def trailDeadlineAt (t : TableStore) (e : Track) (st : Station) (q : Pos) : Pos :=
  let m := mediaEntry t e.gen e.media
  plus q (e.measured.getD (m.length : Int) + m.tolerance + (stationEntry t st).window + (stationEntry t st).debounce)

/-- A trail becomes pending at a lead-and-trail station, replacing an earlier one (R93). -/
def pendTrail (e : Track) (st : Station) (q : Pos) (s : State) : State :=
  if bothEdges st then
    let dl := trailDeadlineAt s.tables e st q
    placePoint (stationSegment st) dl (.trailDeadline e.sheet)
      (updateTrack e.sheet (fun e => { e with trail := some { station := st, deadline := dl, lead := q } }) s)
  else s

/-! ## Clutches (R76) -/

/-- A source's clutch is wanted: an entry of it is FEEDING and has had its feed start. -/
def clutchWanted (table : List Track) (src : Source) : Bool :=
  table.any (fun e => decide (e.source = src ∧ e.state = .feeding) && e.expected.isSome)

/-- A clutch line set. -/
def setClutch (src : Source) (on : Bool) (c : Clutches) : Clutches :=
  match src with
  | .drawer .d1 => { c with d1 := on } | .drawer .d2 => { c with d2 := on } | .drawer .d3 => { c with d3 := on }
  | .drawer .d4 => { c with d4 := on } | .shelf => { c with shelf := on }

/-- A clutch line's level. -/
def clutchOf (c : Clutches) : Source → Bool
  | .drawer .d1 => c.d1 | .drawer .d2 => c.d2 | .drawer .d3 => c.d3 | .drawer .d4 => c.d4 | .shelf => c.shelf

/-- After an on-time lead at a source exit the clutch is released if no other such entry remains (R76). -/
def releaseClutch (src : Source) (s : State) : State :=
  if clutchWanted s.tracker.table src then s
  else { s with sched := { s.sched with clutches := setClutch src false s.sched.clutches } }

/-! ## The diverter (R98 to R102) -/

/-- The destination a decision gives (R100). -/
def destinationOf (mode : RunMode) (e : Track) : Destination :=
  if e.spoiled.isSome then .prg else if mode = .duplex ∧ e.pass = .first then .dxe else .out

/-- The diverter line's position for a destination; an undecided sheet leaves it at PRG. -/
def lineOf : Destination → DiverterLine
  | .out => .out | .dxe => .dxe | .prg => .prg | .undecided => .prg

/-- A sheet's destination is decided: its entry, the diverter line, and the reservation a pass-1 DUPLEX sheet bound
for PRG gives back (R99, R100, R113). -/
def decideDestination (e : Track) (s : State) : State :=
  let d := destinationOf (runParams s).mode e
  let s' := updateTrack e.sheet (fun e => { e with dest := d }) s
  let back := (runParams s).mode = .duplex ∧ e.pass = .first ∧ d = .prg
  { s' with
    tracker := { s'.tracker with line := lineOf d }
    sched := { s'.sched with reservation := if back then s'.sched.reservation - 1 else s'.sched.reservation } }

/-- The diverter's state set. -/
def setDiverter (d : Diverter) (s : State) : State := { s with tracker := { s.tracker with diverter := d } }

/-- At an on-time lead at FUS the destination is decided while the diverter is FREE; otherwise the sheet waits (R99). -/
def decideAtFuser (e : Track) (s : State) : State :=
  if s.tracker.diverter = .free then setDiverter (.set e.sheet) (decideDestination e s) else s

/-- A sheet is waiting: it expects DIV and its destination is undecided (R99). -/
def waiting (e : Track) : Bool := decide (e.next = some .div ∧ e.dest = .undecided)

/-- At a trail at DIV a BUSY diverter becomes FREE, and the earliest waiting sheet is decided (R102). -/
def freeDiverter (s : State) : State :=
  match s.tracker.diverter with
  | .busy _ =>
    let s' := setDiverter .free s
    match earliest (fun e => if waiting e then e.expected else none) s'.tracker.table with
    | none => s'
    | some e => setDiverter (.set e.sheet) (decideDestination e s')
  | _ => s

/-- The next station of a sheet at DIV, by its destination (R101, R86). -/
def afterDiverter (id : SheetId) (d : Destination) (q : Pos) (s : State) : State :=
  match d with
  | .out => expectLead id .out (plus q (stationGap s.tables .div .out)) s
  | .prg => expectLead id .prg (plus q (stationGap s.tables .div .prg)) s
  | .dxe => expectLead id .dxe (plus (segPos s .duplex) (stationEntry s.tables .div).aux) s
  | .undecided => expectNothing id s

/-- An on-time lead at DIV: the diverter becomes BUSY with the sheet, or OVERLAP is raised (R101). -/
def arriveDiverter (e : Track) (q : Pos) (d : Int) (s : State) : State :=
  match s.tracker.diverter with
  | .set id =>
    if id = e.sheet then afterDiverter e.sheet e.dest q (setDiverter (.busy e.sheet) s)
    else jam .overlap .div (some (nameOf e)) (some d) s
  | .free =>
    if e.dest = .undecided then
      afterDiverter e.sheet (destinationOf (runParams s).mode e) q (setDiverter (.busy e.sheet) (decideDestination e s))
    else afterDiverter e.sheet e.dest q (setDiverter (.busy e.sheet) s)
  | .busy _ => jam .overlap .div (some (nameOf e)) (some d) s

/-! ## Staging, the shelf and the collator at a lead (R77, R104, R114, R124) -/

/-- An entry's state set. -/
def setSheetState (id : SheetId) (st : SheetState) (s : State) : State := updateTrack id (fun e => { e with state := st }) s

/-- An on-time lead at REG: STAGED, or OVERLAP while another entry is STAGED (R77). -/
def stage (e : Track) (d : Int) (s : State) : State :=
  if s.tracker.table.any (fun o => decide (o.sheet ≠ e.sheet ∧ o.state = .staged)) then
    jam .overlap .reg (some (nameOf e)) (some d) s
  else setSheetState e.sheet .staged s

/-- A sheet joins the shelf list's tail, unsettled, with its settle point on DUPLEX (R114). -/
def joinShelf (e : Track) (q : Pos) (s : State) : State :=
  placePoint .duplex
    (plus q ((mediaEntry s.tables e.gen e.media).length + (stationEntry s.tables .dxs).aux : Nat))
    (.settle e.sheet) { s with shelf := s.shelf ++ [⟨e.sheet, false⟩] }

/-- The collator accepts a lead at OUT (R124). -/
def collatorAccepts (c : Collator) (id : SheetId) : Bool :=
  match c.mode with
  | .empty => decide (id.seq = 1)
  | .collecting => decide (c.held = some { set := id.set, attempt := id.attempt } ∧ id.seq = c.list.length + 1)
  | .pushing | .dumping | .faulted => false

/-- The collator is told of a lead at OUT: accepted, or COLLATOR_OVERRUN (R124). -/
def collatorLead (e : Track) (d : Int) (s : State) : State :=
  if collatorAccepts s.collator e.sheet then s else jam .collatorOverrun .out (some (nameOf e)) (some d) s

/-! ## Judging a lead (R85, R89 to R91) -/

/-- Steps four and five of an on-time lead: the next station and the action of station st (R91's route table). -/
def routeOn (e : Track) (st : Station) (q : Pos) (d : Int) (s : State) : State :=
  match st with
  | .d1x | .d2x | .d3x | .d4x | .shx =>
    releaseClutch e.source (setSheetState e.sheet .approaching (expectLead e.sheet .reg (plus q (stationGap s.tables st .reg)) s))
  | .reg => stage e d (expectNothing e.sheet s)
  | .xfr => expectLead e.sheet .fus (plus q (stationGap s.tables .xfr .fus)) s
  | .fus => decideAtFuser e (expectLead e.sheet .div (plus q (stationGap s.tables .fus .div)) s)
  | .div => arriveDiverter e q d s
  | .out => collatorLead e d (expectNothing e.sheet s)
  | .prg => expectNothing e.sheet s
  | .dxe => expectLead e.sheet .inv (plus q (stationGap s.tables .dxe .inv)) s
  | .inv => expectLead e.sheet .dxs (plus q (stationGap s.tables .inv .dxs)) s
  | .dxs => joinShelf e q (setSheetState e.sheet .shelved (expectNothing e.sheet s))

/-- An on-time lead advances its entry: last station passed, trim, trail pending, next station, action (R91). -/
def advance (e : Track) (st : Station) (q : Pos) (d : Int) (s : State) : State :=
  routeOn e st q d
    (pendTrail e st q (trimAtLead e st q (updateTrack e.sheet (fun e => { e with lastPassed := some st }) s)))

/-- The head of a station's candidates: entries that expect it and hold an expected position (R89). -/
def headCandidate (st : Station) (table : List Track) : Option Track :=
  earliest (fun e => if e.next = some st then e.expected else none) table

/-- A confirmed lead edge reaches the Sheet Tracker (R85, R89, R90). -/
def leadEdge (st : Station) (q : Pos) (s : State) : State :=
  if pathMoving s.path then
    match headCandidate st s.tracker.table with
    | none => jam .leadEarly st none none s
    | some e =>
      let d := travelDiff q (e.expected.getD q)
      let w : Int := (stationEntry s.tables st).window
      let s' := dropPoint (.leadDeadline e.sheet) s
      if d < -w then jam .leadEarly st (some (nameOf e)) (some d) s'
      else if w < d then jam .leadOverdue st (some (nameOf e)) (some d) s'
      else advance e st q d s'
  else s

/-! ## Judging a trail (R94, R95, R102, R106, R107, R125) -/

/-- A matched trail's length: measured, kept if it is the first, and judged against the media entry (R95). -/
def judgeLength (e : Track) (lead q : Pos) (s : State) : State :=
  let l := travelDiff q lead
  let m := mediaEntry s.tables e.gen e.media
  let s' := updateTrack e.sheet (fun e => { e with measured := some (e.measured.getD l) }) s
  if m.tolerance < (l - m.length).natAbs ∧ e.spoiled = none then
    spoilSet .length e.sheet.set (updateTrack e.sheet (flagTrack .length) s')
  else s'

/-- The collator takes a sheet into its account: list, state, the set's count, then the push and dump tests (R125). -/
def collatorTrail (e : Track) (s : State) : State :=
  let c := s.collator
  let held := { set := e.sheet.set, attempt := e.sheet.attempt : HeldSet }
  let item := { tag := e.tag, sheet := e.sheet, last := e.last : Collected }
  let c' := match c.mode with
    | .empty => { c with mode := .collecting, held := some held, list := c.list ++ [item] }
    | .collecting => { c with list := c.list ++ [item] }
    | .pushing | .dumping | .faulted => c
  testPushDump (updateSet e.sheet.set (fun r => { r with collected := r.collected + 1 }) { s with collator := c' })

/-- The references of the entry of a sheet, which leave with it (R165). -/
def trackRefs (id : SheetId) (s : State) : List Bank :=
  (s.tracker.table.filter (fun e => decide (e.sheet = id))).map (fun e => e.gen)

/-- A sheet leaves at OUT: out of the table, into the collator, its reference released, its set's drain check (R106). -/
def exitOut (e : Track) (s : State) : State :=
  drainCheck e.sheet.set (releaseRefs (trackRefs e.sheet s) (collatorTrail e (removeTrack e.sheet s)))

/-- A sheet leaves at PRG: out of the table, its reference released, its set's drain check (R107). -/
def exitPrg (e : Track) (s : State) : State :=
  drainCheck e.sheet.set (releaseRefs (trackRefs e.sheet s) (removeTrack e.sheet s))

/-- The entry with a trail pending at a station; of several, the one whose lead position is earliest (R94). -/
def trailCandidate (st : Station) (table : List Track) : Option Track :=
  earliest (fun e => match e.trail with | some t => if t.station = st then some t.lead else none | none => none) table

/-- A matched trail: its point and fields removed, its length judged, and the exit taken at OUT or PRG (R94). -/
def matchTrail (e : Track) (lead : Pos) (st : Station) (q : Pos) (s : State) : State :=
  let s' := judgeLength e lead q
    (updateTrack e.sheet (fun e => { e with trail := none }) (dropPoint (.trailDeadline e.sheet) s))
  match st with
  | .out => exitOut e s'
  | .prg => exitPrg e s'
  | _ => s'

/-- A confirmed trail edge reaches the Sheet Tracker (R85, R94, R102). -/
def trailEdge (st : Station) (q : Pos) (s : State) : State :=
  if pathMoving s.path then
    let s' := match trailCandidate st s.tracker.table with
      | none => s
      | some e => matchTrail e ((e.trail.map (fun t => t.lead)).getD q) st q s
    if st = .div then freeDiverter s' else s'
  else s

/-! ## Confirming an edge (R11, R12) -/

/-- A pending raw edge is confirmed: the level follows it, the pending edge is removed, and the edge is handed on,
a trail only at a lead-and-trail station (R11, R12). -/
def confirmEdge (st : Station) (edge : PendingEdge) (s : State) : State :=
  let k := s.stations[stationId st]
  let q := plus edge.raw (stationEntry s.tables st).latency
  let s' := { s with stations := s.stations.set (stationId st) { k with level := edge.blocked, edge := none } }
  if k.level = false ∧ edge.blocked = true then leadEdge st q s'
  else if k.level = true ∧ edge.blocked = false ∧ bothEdges st = true then trailEdge st q s'
  else s'

end Sys2Proof.Machine
end

