-- ==== Sys2Proof/Machine/BeltOps.lean ====
section
/-! DEFINITION. The Pitch Scheduler's operations: seam synchronisation and slips (R62 to R65), the pitch commit event
(R66 to R74), feed starts, releases and the gate (R75, R78, R79), image faults (R81), and the flush of a recovery
or reset (R80, R82). -/

namespace Sys2Proof.Machine

/-! ## The imager link outward (R80, R182) -/

/-- A frame is sent to the imaging unit. -/
def sendImager (frame : List Byte) (s : State) : State := { s with imager := { s.imager with out := s.imager.out ++ [frame] } }

/-! ## The pitch ring (R74, R78) -/

/-- The release point is placed at the head's release position, or is absent while the ring is empty (R78). -/
def placeRelease (s : State) : State :=
  match s.sched.ring with
  | [] => dropPoint .release s
  | r :: _ => placePoint .belt r.release .release s

/-- A committed pitch joins the ring's tail; into an empty ring it brings the release point (R74, R78). -/
def joinRing (r : RingEntry) (s : State) : State :=
  let s' := { s with sched := { s.sched with ring := s.sched.ring ++ [r] } }
  if s.sched.ring.isEmpty then placeRelease s' else s'

/-! ## What each claimant needs (R68, R69) -/

/-- The report queue holds fewer than 48 reports (R174). -/
def backlogClear (s : State) : Bool := decide (s.report.queue.length < backlogThreshold)

/-- The conditions of the shelf refeed other than the report queue's (R68). -/
def refeedOtherwise (s : State) : Bool :=
  decide ((runParams s).mode = .duplex ∧ s.sched.gap2 = 0)
    && (match s.shelf with
        | h :: _ => h.settled && (findTrack h.sheet s.tracker.table).isSome
        | [] => false)

/-- An order's drawer is not empty (R69). -/
def feedDrawer (o : Order) (s : State) : Bool := !drawerEmpty s.inputs.drawers (mediaEntry s.tables o.gen o.media).drawer

/-- The set of an order has a committed sheet (R43, R69). -/
def setCommitted (n : SetNumber) (reg : List SetEntry) : Bool :=
  match findSet n reg with
  | some e => hasCommitted e
  | none => false

/-- The conditions of the new feed other than its drawer's and the report queue's (R69). -/
def feedOtherwise (o : Order) (s : State) : Bool :=
  decide (s.tracker.table.length < trackCapacity)
    && (match (runParams s).mode with
        | .simplex => decide (s.sched.gap1 = 0)
        | .duplex => decide (s.sched.reservation < 5))
    && (decide (s.path.state = .running) || (decide (s.path.state = .halting) && setCommitted o.sheet.set s.registry))

/-- What a pitch commit event gives its pitch to (R67). -/
inductive PitchChoice where
  | refeed (sheet : SheetId)
  | feed (order : Order)
  | blank
deriving DecidableEq, Repr

/-- The claimant the pitch is committed to: the shelf before the queue's head (R67). -/
def choosePitch (s : State) : PitchChoice :=
  match s.shelf, refeedOtherwise s && backlogClear s with
  | h :: _, true => .refeed h.sheet
  | _, _ =>
    match s.orders with
    | o :: _ => if feedDrawer o s && feedOtherwise o s && backlogClear s then .feed o else .blank
    | [] => .blank

/-! ## Committing a pitch (R70, R72, R73) -/

/-- The feed start of a sheet: on MAIN, W − F − M beyond the position at the event (R72, R73). -/
def placeFeedStart (id : SheetId) (src : Source) (s : State) : State :=
  let b := beltEntry s.tables
  placePoint .main
    (plus (segPos s .main) ((b.writeToRelease : Int) - feedDistance s.tables src - b.stagingMargin)) (.feedStart id) s

/-- A pitch's release position: W beyond the BELT position of its commit event (R74). -/
def releasePosition (s : State) : Pos := plus (segPos s .belt) (beltEntry s.tables).writeToRelease

/-- The tracking entry a new feed creates (R72). -/
def feedTrack (o : Order) (src : Source) : Track :=
  { tag := o.tag, sheet := o.sheet, last := o.last, media := o.media, gen := o.gen, source := src, pass := .first
    side2 := o.side2, state := .feeding, next := some (sourceExit src), expected := none, leadDeadline := none
    trimStart := none, released := none, trail := none, measured := none, spoiled := none, dest := .undecided
    lastPassed := none }

/-- The pitch is committed to the new feed of the queue's head (R72). -/
def commitFeed (o : Order) (k : Nat) (s : State) : State :=
  let src := Source.drawer (mediaEntry s.tables o.gen o.media).drawer
  let s₁ := updateSet o.sheet.set (fun e => { e with committed := e.committed + 1 }) { s with orders := s.orders.drop 1 }
  let s₂ := { s₁ with
    tracker := { s₁.tracker with table := s₁.tracker.table ++ [feedTrack o src] }
    sched := { s₁.sched with
      reservation := if (runParams s).mode = .duplex then s₁.sched.reservation + 1 else s₁.sched.reservation } }
  let s₃ := joinRing
    { pitch := k, tag := o.tag, sheet := o.sheet, handle := some o.side1, release := releasePosition s } s₂
  placeFeedStart o.sheet src (sendImager (imageWriteFrame k o.side1) s₃)

/-- The tracking entry as a refeed reshapes it for pass 2 (R73). -/
def refedTrack (e : Track) : Track :=
  { e with pass := .second, source := .shelf, state := .feeding, dest := .undecided, next := some .shx
           expected := none, leadDeadline := none }

/-- The pitch is committed to the shelf refeed of the sheet at the shelf's head (R73, R116). -/
def commitRefeed (id : SheetId) (k : Nat) (s : State) : State :=
  match findTrack id s.tracker.table with
  | none => s
  | some e =>
    let s₁ := updateTrack id refedTrack
      { s with shelf := s.shelf.drop 1, sched := { s.sched with reservation := s.sched.reservation - 1 } }
    let s₂ := joinRing { pitch := k, tag := e.tag, sheet := id, handle := e.side2, release := releasePosition s } s₁
    let s₃ := match e.side2 with
      | some h => sendImager (imageWriteFrame k h) s₂
      | none => s₂
    placeFeedStart id .shelf s₃

/-- A BLANK pitch: counted, and DRAWER_EMPTY or REPORT_BACKLOG latched where a claimant failed on that condition
alone (R70, R177). -/
def blankPitch (s : State) : State :=
  let s₁ := { s with sched := { s.sched with blanks := min blankLimit (s.sched.blanks + 1) } }
  let drawerAlone := match s.orders with
    | o :: _ => !feedDrawer o s && feedOtherwise o s && backlogClear s
    | [] => false
  let backlogAlone := !backlogClear s &&
    (refeedOtherwise s || (match s.orders with | o :: _ => feedDrawer o s && feedOtherwise o s | [] => false))
  let s₂ := if drawerAlone then latch .drawerEmpty s₁ else s₁
  if backlogAlone then latch .reportBacklog s₂ else s₂

/-- Each set-gap counter above 0 decreases by 1 (R67). -/
def lowerGaps (s : State) : State := { s with sched := { s.sched with gap1 := s.sched.gap1 - 1, gap2 := s.sched.gap2 - 1 } }

/-- The three steps of a pitch commit event: the decision, the decrease of the set-gap counters, and the loading of
the final pass's counter after a sheet whose order carries LAST (R67, R71). -/
def commitPitch (s : State) : State :=
  let k := s.sched.nextPitch
  let g := (runParams s).setGap
  match choosePitch s with
  | .blank => lowerGaps (blankPitch s)
  | .feed o =>
    let s' := lowerGaps (commitFeed o k s)
    if (runParams s).mode = .simplex ∧ o.last = true then { s' with sched := { s'.sched with gap1 := g } } else s'
  | .refeed id =>
    let s' := lowerGaps (commitRefeed id k s)
    if ((findTrack id s.tracker.table).map (fun e => e.last)) = some true then
      { s' with sched := { s'.sched with gap2 := g } }
    else s'

/-- After the event the scheduler moves on to the next pitch boundary of the revolution (R66). -/
def moveOn (s : State) : State :=
  let b := beltEntry s.tables
  let k := s.sched.nextPitch
  match s.sched.seam with
  | none => s
  | some seam =>
    if k + 1 < b.pitches then
      placePoint .belt (plus seam ((b.seamOffset + (k + 1) * b.pitchLength : Nat) : Int)) .pitch
        { s with sched := { s.sched with nextPitch := k + 1 } }
    else { s with sched := { s.sched with nextPitch := 0 } }

/-- The pitch commit event, where the pitch point is reached (R66, R67). -/
def pitchEvent (s : State) : State :=
  deliver .pitch (fun _ s => if pathMoving s.path = true ∧ s.sched.seam.isSome = true then moveOn (commitPitch s) else s) s

/-! ## The seam (R62 to R65) -/

/-- The belt slips (R65). -/
def beltSlip (deviation : Option Int) (s : State) : State :=
  raiseFault { cause := .beltSlip, station := none, named := none, deviation := deviation } (latch .beltSlip s)

/-- The seam reference is taken at a mark: S, the watch point, pitch 0's boundary, and its commit event where that
is reached at once (R5, R63, R64). -/
def takeSeam (mark : Pos) (s : State) : State :=
  let b := beltEntry s.tables
  let s₁ := { s with sched := { s.sched with seam := some mark, nextPitch := 0 } }
  let s₂ := withPassages (placePoint .belt (plus mark ((b.revolution + b.seamTolerance : Nat) : Int)) .seamWatch) s₁
  pitchEvent (placePoint .belt (plus mark (b.seamOffset : Int)) .pitch s₂)

/-- A seam mark: synchronise, re-base or slip (R63, R64, R65). -/
def seamMark (s : State) : State :=
  let b := beltEntry s.tables
  let mark := segPos s .belt
  match s.sched.seam with
  | none => if pathMoving s.path then takeSeam mark s else s
  | some seam =>
    let d := travelDiff mark (plus seam (b.revolution : Int))
    if d.natAbs ≤ b.seamTolerance then takeSeam mark s else beltSlip (some d) s

/-! ## Feed starts, releases and the gate (R75, R78, R79) -/

/-- A feed start reached: the source's clutch is engaged and the sheet expected at the source exit (R75). -/
def feedStartReached (id : SheetId) (q : Point) (s : State) : State :=
  if pathMoving s.path then
    match findTrack id s.tracker.table with
    | none => s
    | some e =>
      expectLead id (sourceExit e.source) (plus q.position (stationEntry s.tables (sourceExit e.source)).aux)
        { s with sched := { s.sched with clutches := setClutch e.source true s.sched.clutches } }
  else s

/-- The gate opens for the staged sheet of entry e, which moves on toward XFR (R78, R79). -/
def openGate (e : Track) (s : State) : State :=
  let p := segPos s .main
  let b := beltEntry s.tables
  let s₁ := placePoint .main (plus p ((mediaEntry s.tables e.gen e.media).length + b.clearance / 2 : Nat)) .gateClose
    { s with sched := { s.sched with gateOpen := true } }
  expectLead e.sheet .xfr (plus p (stationGap s.tables .reg .xfr))
    (updateTrack e.sheet (fun e => { e with state := .moving, released := some p }) s₁)

/-- The head leaves the ring, and the release point is placed afresh (R78). -/
def leaveRing (s : State) : State := placeRelease { s with sched := { s.sched with ring := s.sched.ring.drop 1 } }

/-- The release of the ring's head (R78). -/
def releaseHead (s : State) : State :=
  match s.sched.ring with
  | [] => s
  | r :: _ =>
    match (findTrack r.sheet s.tracker.table).filter (fun e => decide (e.state = .staged)) with
    | some e => leaveRing (openGate e s)
    | none => jam .leadOverdue .reg (some { tag := r.tag, sheet := r.sheet }) none s

/-- The gate closes. -/
def closeGate (s : State) : State := { s with sched := { s.sched with gateOpen := false } }

/-! ## Image faults (R81) -/

/-- An IMAGE FAULT: the oldest ring entry with its pitch index and handle is spoiled; no match is ignored (R81). -/
def imageFault (pitch : Byte) (handle : Handle) (s : State) : State :=
  match s.sched.ring.find? (fun r => decide (r.pitch = pitch.toNat ∧ r.handle = some handle)) with
  | none => s
  | some r => spoilSet .image r.sheet.set (updateTrack r.sheet (flagTrack .image) (latch .imageFault s))

/-! ## Flush (R80, R82, R150, R151) -/

/-- The points a flush removes: feed starts, the release point, the gate close point. -/
def isSchedulerPoint : PointEvent → Bool
  | .feedStart _ => true
  | .release => true
  | .gateClose => true
  | _ => false

/-- Ring emptied with a RING FLUSH, feed starts removed, gate closed, clutches released, set-gap counters 0, belt
UNSYNCED (R82). -/
def flushScheduler (s : State) : State :=
  desync (sendImager ringFlushFrame (dropPoints isSchedulerPoint
    { s with sched := { s.sched with
        ring := [], gateOpen := false, clutches := Clutches.released, gap1 := 0, gap2 := 0 } }))

/-- The points that leave with the tracking table and the shelf list: deadlines and settle points. -/
def isSheetPoint : PointEvent → Bool
  | .leadDeadline _ => true
  | .trailDeadline _ => true
  | .settle _ => true
  | _ => false

/-- The tracking table and the shelf list emptied with their points, references released, the diverter FREE with its
line at PRG, the reservation count 0 (R110, R119, R120). -/
def flushSheets (s : State) : State :=
  let gens := s.tracker.table.map (fun e => e.gen)
  let s₁ := dropPoints isSheetPoint
    { s with
      tracker := { table := [], diverter := .free, line := .prg }
      shelf := []
      sched := { s.sched with reservation := 0 } }
  releaseRefs gens s₁

end Sys2Proof.Machine
end

