-- ==== Sys2Proof/Machine/IntakeOps.lean ====
section
/-! DEFINITION. Record Intake and the Order Queue's checks: how a record comes to be taken (R179 to R181), the
interruption of an open load (R157), and the ordered checks of a SHEET record (R24 to R34, R38 to R40). -/

namespace Sys2Proof.Machine

/-! ## How a record comes to be taken (R179, R180; log 6) -/

/-- A record command: handed over whole while the link is idle and the buffer empty, it is taken; standing at the head
of the buffer, its frame leaves the buffer, it is taken, and the next frame has its turn; otherwise, or while the link is held,
its bytes arrive and wait (R38, R39, R179; log 6). -/
def intake (kind : Byte) (tag : Tag) (body : List Byte) (take : State → State) (s : State) : State :=
  let rx := s.intake.rx
  let wait := arrive (fun rx => receiveBytes rx (recordFrame kind tag body)) s
  if s.intake.held.isSome then wait
  else
    match rx.frames with
    | [] => if rx.collecting.isNone then take s else wait
    | f :: rest =>
      if frameFields f = some (kind, tag, body) then nextTurn (take (withReceiver { rx with frames := rest } s)) else wait

/-! ## The interruption of a load (R157, R163) -/

/-- The table an open load names. -/
def loadTable (l : Load) : TableName :=
  match l.buffer with
  | .media => .media | .station _ => .station | .segment _ _ => .segment | .belt _ => .belt

/-- No load is open; the bank of a MEDIA load returns to FREE (R157, R158, R161, R163). -/
def dropLoad (s : State) : State :=
  match s.intake.load with
  | none => s
  | some l =>
    let s' := { s with intake := { s.intake with load := none } }
    match l.buffer with
    | .media => { s' with tables := { s'.tables with inactive := .free } }
    | _ => s'

/-- A record interrupts an open load: abandoned, LOAD_SEQUENCE latched, TABLE DISCARDED SEQUENCE queued (R157). -/
def interrupt (tag : Tag) (s : State) : State :=
  match s.intake.load with
  | none => s
  | some l => sendReport (.table (loadTable l) (.discarded .sequence) tag) (latch .loadSequence (dropLoad s))

/-- The meaning of a record of a kind other than the load records: it interrupts an open load, then acts. -/
def plainRecord (kind : RecordKind) (tag : Tag) (body : List Byte) (act : State → State) (s : State) : State :=
  intake (recordKindCode kind) tag body (fun s => act (interrupt tag s)) s

/-- A record whose body is fixed at length 0: with a longer one it interrupts an open load and is refused with
BAD_FIELD before its own rules apply (R180). -/
def bodilessRecord (kind : RecordKind) (tag : Tag) (body : List Byte) (act : State → State) (s : State) : State :=
  intake (recordKindCode kind) tag body
    (fun s => if body = [] then act s else refuse (some tag) (some kind) .badField (interrupt tag s)) s

/-! ## The checks of a SHEET record (R25 to R32, R38, R40) -/

/-- How a record has passed the attempt, sequence and unknown-set checks (R29, R30). -/
inductive SheetPass where
  | newSet | reprintStart | continuation
deriving DecidableEq, Repr

/-- The outcome of the attempt, sequence and unknown-set checks. -/
inductive SetJudgement where
  | refused (code : RefusalCode)
  | passes (how : SheetPass)
deriving DecidableEq, Repr

/-- The outcome of all the checks from absorption on. -/
inductive SheetOutcome where
  | absorbed
  | refused (code : RefusalCode)
  | held
  | accepted (how : SheetPass)
deriving DecidableEq, Repr

/-- The record is absorbed: an old attempt of a withdrawn set (R25). -/
def sheetAbsorbed (r : SheetRecord) (reg : List SetEntry) : Bool :=
  match findSet r.sheet.set reg with
  | some e => setWithdrawn e.state && decide (r.sheet.attempt < e.attempt)
  | none => false

/-- Another set is OPEN (R27). -/
def otherOpen (n : SetNumber) (reg : List SetEntry) : Bool := reg.any (fun e => decide (e.state = .open ∧ e.set ≠ n))

/-- The sequence check of a record whose attempt is the entry's (R28, R29). -/
def judgeSequence (seq : Nat) (e : SetEntry) : SetJudgement :=
  match e.state with
  | .failed => .refused .reprintNotRequested
  | .open => if seq = e.ordered + 1 then .passes .continuation else .refused .badSequence
  | .awaitingReprint => if seq = 1 then .passes .reprintStart else .refused .badSequence
  | .spoiled => .refused .reprintNotRequested
  | .sealed | .delivering => .refused .badSequence

/-- The attempt, sequence and unknown-set checks (R28, R29, R30). -/
def judgeSet (r : SheetRecord) (reg : List SetEntry) : SetJudgement :=
  match findSet r.sheet.set reg with
  | none => if r.sheet.attempt = 0 ∧ r.sheet.seq = 1 then .passes .newSet else .refused .badSequence
  | some e =>
    if e.attempt < r.sheet.attempt then .refused .attemptTooHigh
    else if r.sheet.attempt < e.attempt then .refused .badSequence
    else judgeSequence r.sheet.seq e

/-- An entry blocks new sets and younger reprint starts in STRICT (R31). -/
def blocksOrder (e : SetEntry) : Bool := decide (e.state = .spoiled ∨ e.state = .awaitingReprint)

/-- The STRICT order of sets refuses the record (R31). -/
def outOfOrder (how : SheetPass) (n : SetNumber) (s : State) : Bool :=
  strict s &&
    (match how with
     | .newSet => s.registry.any blocksOrder
     | .reprintStart => (older n s.registry).any blocksOrder
     | .continuation => false)

/-- The media and length checks (R32). -/
def judgeMedia (r : SheetRecord) (s : State) : Option RefusalCode :=
  match (bankEntries s.tables s.tables.active)[r.media] with
  | none => some .unknownMedia
  | some m =>
    if (runParams s).mode = .duplex ∧ m.duplexPermitted = false then some .duplexNotPermitted
    else if (runParams s).mode = .simplex ∧ r.side2.isSome = true then some .duplexNotPermitted
    else if largestSet < r.sheet.seq then some .setTooLong
    else none

/-- The order queue lacks room (R38). -/
def queueFull (s : State) : Bool := decide (orderCapacity ≤ s.orders.length)

/-- The record lacks registry room (R38). -/
def registryFull (how : SheetPass) (s : State) : Bool := decide (how = .newSet ∧ registryCapacity ≤ s.registry.length)

/-- A hold can end by itself (R40). -/
def holdCanEnd (how : SheetPass) (s : State) : Bool :=
  pathMoving s.path
    && (!registryFull how s || s.registry.any (fun e => decide (e.state = .sealed ∨ e.state = .delivering)))

/-- Room: accepted, held, or refused with WRONG_STATE (R34, R38, R40). -/
def judgeRoom (how : SheetPass) (s : State) : SheetOutcome :=
  if queueFull s || registryFull how s then (if holdCanEnd how s then .held else .refused .wrongState)
  else .accepted how

/-- The checks from absorption on, in their order (R24, R39). -/
def judgeSheet (r : SheetRecord) (s : State) : SheetOutcome :=
  if sheetAbsorbed r s.registry then .absorbed
  else if otherOpen r.sheet.set s.registry then .refused .interleaved
  else
    match judgeSet r s.registry with
    | .refused c => .refused c
    | .passes how =>
      if outOfOrder how r.sheet.set s then .refused .outOfSequence
      else
        match judgeMedia r s with
        | some c => .refused c
        | none => judgeRoom how s

/-! ## What the outcome does (R24, R33, R34, R38) -/

/-- A refusal code that spoils the OPEN set (R33). -/
def codeSpoils : RefusalCode → Bool
  | .badSequence | .unknownMedia | .duplexNotPermitted | .setTooLong => true
  | .badFrame | .badField | .noRun | .interleaved | .attemptTooHigh | .reprintNotRequested | .outOfSequence
  | .wrongState | .outOfRange | .locked | .tablesBusy | .tablesIncomplete | .notClear | .conditionsSet | .noLoad => false

/-- The set stands in the registry and is OPEN. -/
def setOpen (n : SetNumber) (reg : List SetEntry) : Bool :=
  match findSet n reg with
  | some e => decide (e.state = .open)
  | none => false

/-- A SHEET record is refused, and the OPEN set it names spoiled where the code spoils (R24, R33). -/
def refuseSheet (r : SheetRecord) (code : RefusalCode) (s : State) : State :=
  let s' := refuse (some r.tag) (some .sheet) code s
  if codeSpoils code && setOpen r.sheet.set s.registry then spoilSet .order r.sheet.set s' else s'

/-- The order an accepted record becomes (R23). -/
def orderOf (r : SheetRecord) (gen : Bank) : Order :=
  { tag := r.tag, sheet := r.sheet, last := r.last, media := r.media, gen := gen, side1 := r.side1, side2 := r.side2 }

/-- The entry of a new set (R34). -/
def newEntry (n : SetNumber) : SetEntry :=
  { set := n, attempt := 0, ownFailures := 0, state := .open, ordered := 1, committed := 0, collected := 0
    reason := none, drained := false, failing := false }

/-- The entry a reprint start reopens (R34, R54). -/
def reopenedEntry (e : SetEntry) : SetEntry :=
  { e with state := .open, ordered := 1, committed := 0, collected := 0, drained := false, reason := none }

/-- The registry's part of an acceptance, before the set is sealed (R34). -/
def registerSheet (how : SheetPass) (n : SetNumber) (s : State) : State :=
  match how with
  | .newSet => { s with registry := s.registry ++ [newEntry n] }
  | .reprintStart => updateSet n reopenedEntry s
  | .continuation => updateSet n (fun e => { e with ordered := e.ordered + 1 }) s

/-- A record is accepted: order, reference, registry, and the sealing on LAST (R34, R165). -/
def acceptSheet (r : SheetRecord) (how : SheetPass) (s : State) : State :=
  let gen := s.tables.active
  let s₁ := registerSheet how r.sheet.set { s with orders := s.orders ++ [orderOf r gen], tables := addRef gen s.tables }
  if r.last then updateSet r.sheet.set (fun e => { e with state := .sealed }) s₁ else s₁

/-- The bytes of a SHEET record's frame. -/
def sheetFrame (tag : Tag) (body : List Byte) : Frame := wholeFrame (recordFrame (recordKindCode .sheet) tag body)

/-- The link is held: the record stays the one being taken, its frame at the head of the buffer (R38, R181). -/
def holdLink (r : SheetRecord) (body : List Byte) (s : State) : State :=
  { s with intake := { s.intake with
      held := some r, rx := { s.intake.rx with frames := sheetFrame r.tag body :: s.intake.rx.frames } } }

/-- What an outcome other than holding does. -/
def settleSheet (r : SheetRecord) (o : SheetOutcome) (s : State) : State :=
  match o with
  | .absorbed => s
  | .refused c => refuseSheet r c s
  | .held => s
  | .accepted how => acceptSheet r how s

/-- The FAILED entries of other sets are removed (R26). -/
def removeFailed (n : SetNumber) (s : State) : State :=
  { s with registry := s.registry.filter (fun e => !decide (e.state = .failed ∧ e.set ≠ n)) }

/-- A SHEET record comes up for taking, any open load already abandoned (R24). -/
def takeSheet (tag : Tag) (body : List Byte) (s : State) : State :=
  match parseSheet tag body with
  | none => refuse (some tag) (some .sheet) .badField s
  | some r =>
    if s.path.runActive then
      let s' := removeFailed r.sheet.set s
      match judgeSheet r s' with
      | .held => holdLink r body s'
      | o => settleSheet r o s'
    else refuse (some tag) (some .sheet) .noRun s

/-- The hold ends: the record and its frame leave the buffer (R39, R181). -/
def endHold (s : State) : State :=
  { s with intake := { s.intake with held := none, rx := { s.intake.rx with frames := s.intake.rx.frames.drop 1 } } }

/-- The held record's checks run again; where it is taken, the hold ends and the next frame has its turn (R39, R40). -/
def retrySheet (s : State) : State :=
  match s.intake.held with
  | none => s
  | some r =>
    match judgeSheet r s with
    | .held => s
    | o => nextTurn (settleSheet r o (endHold s))

/-! ## Part ready (R181) -/

/-- The part ready line: the link is not held and the buffer has room for a frame of the largest size. -/
def partReady (i : Intake) : Bool := i.held.isNone && decide (receiverUsed i.rx + largestFrame ≤ receiveCapacity)

end Sys2Proof.Machine
end

