-- ==== Sys2Proof/Machine/TableOps.lean ====
section
/-! DEFINITION. The Table Store's operations: opening, filling and ending a load (R154 to R161), the geometry checks
(R159), the commits (R160, R164), the locks (R166) and the manual trim (R20). -/

namespace Sys2Proof.Machine

/-! ## LOAD BEGIN (R154) -/

/-- The path admits a load of STATION, SEGMENT or BELT: IDLE or HALTED (R154, R158). -/
def pathParked (p : PathControl) : Bool := decide (p.state = .idle ∨ p.state = .halted)

/-- A vector's entries, each defined. -/
def definedEntries {α : Type} {n : Nat} (v : Vector α n) : Vector (Option α) n := ⟨(v.toList.map some).toArray, by simp⟩

/-- The load buffer filled with the present table (R154). -/
def presentBuffer (t : TableStore) : TableName → LoadBuffer
  | .media => .media
  | .station => .station (match t.station with | some v => definedEntries v | none => Vector.replicate 14 none)
  | .segment => .segment (t.segment.map (fun v => v.main)) (t.segment.map (fun v => v.duplex))
  | .belt => .belt t.belt

/-- A load is opened; for MEDIA the inactive bank becomes LOADING, a copy of the active one (R154, R163). -/
def openLoad (t : TableName) (count : Nat) (s : State) : State :=
  let load : Load :=
    { buffer := presentBuffer s.tables t, remaining := count, mark := .clean, wroteMain := false, wroteDuplex := false }
  let s' := { s with intake := { s.intake with load := some load } }
  match t with
  | .media =>
    { s' with tables :=
        { setBankEntries (otherBank s.tables.active) (bankEntries s.tables s.tables.active) s.tables with
          inactive := .loading } }
  | _ => s'

/-- A LOAD BEGIN record is taken; one that finds a load open interrupts it and is refused (R154, R157). -/
def takeLoadBegin (tag : Tag) (body : List Byte) (s : State) : State :=
  let no (c : RefusalCode) := refuse (some tag) (some .loadBegin) c
  if s.intake.load.isSome then no .wrongState (interrupt tag s)
  else
    match parseLoadBegin body with
    | none => no .badField s
    | some (t, count) =>
      if count < 1 ∨ 16 < count then no .outOfRange s
      else if t ≠ .media ∧ pathParked s.path = false then no .wrongState s
      else if t = .media ∧ s.tables.inactive = .retiring then no .tablesBusy s
      else openLoad t count s

/-! ## LOAD ENTRY (R155, R156) -/

/-- A load is marked BAD; one already marked keeps its reason (R155). -/
def markBad (m : LoadMark) (l : Load) : Load := if l.mark = .clean then { l with mark := m } else l

/-- The open load replaced. -/
def setLoad (l : Load) (s : State) : State := { s with intake := { s.intake with load := some l } }

/-- A MEDIA entry: judged, and written into the inactive bank (R155). -/
def mediaLoadEntry (body : List Byte) (l : Load) (s : State) : State :=
  if body.length = 7 ∧ fieldNat body 0 1 ≤ 15 then
    match parseMediaEntry body with
    | none => setLoad (markBad .badField l) s
    | some e =>
      let i := Fin.ofNat 16 (fieldNat body 0 1)
      if s.tables.mediaLocks[i] = .unlocked then
        let b := otherBank s.tables.active
        setLoad l { s with tables := setBankEntries b ((bankEntries s.tables b).set i e) s.tables }
      else setLoad (markBad .badLocked l) s
  else setLoad (markBad .badField l) s

/-- A STATION entry: judged, and written into the buffer (R155). -/
def stationLoadEntry (body : List Byte) (v : Vector (Option StationEntry) 14) (l : Load) (s : State) : State :=
  if body.length = 10 ∧ fieldNat body 0 1 ≤ 13 then
    match parseStationEntry body with
    | none => setLoad (markBad .badField l) s
    | some e =>
      let i := Fin.ofNat 14 (fieldNat body 0 1)
      if s.tables.stationLocks[i] = .unlocked then setLoad { l with buffer := .station (v.set i (some e)) } s
      else setLoad (markBad .badLocked l) s
  else setLoad (markBad .badField l) s

/-- A SEGMENT entry: judged, and written into the buffer (R155). -/
def segmentLoadEntry (body : List Byte) (main duplex : Option SegmentEntry) (l : Load) (s : State) : State :=
  if body.length = 7 ∧ fieldNat body 0 1 ≤ 1 then
    match parseSegmentEntry body with
    | none => setLoad (markBad .badField l) s
    | some e =>
      if fieldNat body 0 1 = 0 then setLoad { l with buffer := .segment (some e) duplex, wroteMain := true } s
      else setLoad { l with buffer := .segment main (some e), wroteDuplex := true } s
  else setLoad (markBad .badField l) s

/-- A BELT entry: judged, and written into the buffer (R155). -/
def beltLoadEntry (body : List Byte) (l : Load) (s : State) : State :=
  if body.length = 20 ∧ fieldNat body 0 1 = 0 then
    match parseBeltEntry body with
    | none => setLoad (markBad .badField l) s
    | some e => setLoad { l with buffer := .belt (some e) } s
  else setLoad (markBad .badField l) s

/-- A LOAD ENTRY taken while its load expects one (R155). -/
def writeEntry (body : List Byte) (l : Load) (s : State) : State :=
  let l' := { l with remaining := l.remaining - 1 }
  match l.buffer with
  | .media => mediaLoadEntry body l' s
  | .station v => stationLoadEntry body v l' s
  | .segment m d => segmentLoadEntry body m d l' s
  | .belt _ => beltLoadEntry body l' s

/-- A LOAD ENTRY record is taken (R155, R157, R161). -/
def takeLoadEntry (tag : Tag) (body : List Byte) (s : State) : State :=
  match s.intake.load with
  | none => refuse (some tag) (some .loadEntry) .noLoad s
  | some l =>
    if 0 < l.remaining then writeEntry body l s
    else refuse (some tag) (some .loadEntry) .noLoad (interrupt tag s)

/-! ## The geometry checks (R159) -/

/-- The order of positions of a station table. -/
def stationGeometry (v : Vector StationEntry 14) : Bool :=
  let p (st : Station) : Nat := v[stationId st].position
  decide (p .d1x < p .reg ∧ p .d2x < p .reg ∧ p .d3x < p .reg ∧ p .d4x < p .reg ∧ p .shx < p .reg)
    && decide (p .reg < p .xfr ∧ p .xfr < p .fus ∧ p .fus < p .div ∧ p .div < p .out ∧ p .div < p .prg)
    && decide (p .dxe < p .inv ∧ p .inv < p .dxs)

/-- One segment's trim pair: both on that segment, far enough apart. -/
def pairGeometry (g : Segment) (e : SegmentEntry) (v : Vector StationEntry 14) : Bool :=
  decide (stationSegment e.trimA = g ∧ stationSegment e.trimB = g
    ∧ v[stationId e.trimA].position + 1000 ≤ v[stationId e.trimB].position)

/-- The trim pairs of a segment table against a station table. -/
def segmentGeometry (g : SegmentTable) (v : Vector StationEntry 14) : Bool :=
  pairGeometry .main g.main v && pairGeometry .duplex g.duplex v

/-- The relations of the belt table alone. -/
def beltGeometry (b : BeltEntry) : Bool :=
  decide (b.seamOffset + b.pitches * b.pitchLength ≤ b.revolution ∧ b.writeToRelease ≤ 7 * b.pitchLength
    ∧ 2 * b.stagingMargin ≤ b.clearance)

/-- The relations of a station and a belt table. -/
def stationBeltGeometry (v : Vector StationEntry 14) (b : BeltEntry) : Bool :=
  decide (v[stationId .reg].window < b.stagingMargin)
    && allSources.all (fun src =>
        let x := v[stationId (sourceExit src)]
        decide (((x.aux : Int) + ((v[stationId .reg].position : Int) - (x.position : Int))) + b.stagingMargin
          ≤ b.writeToRelease))

/-- The media relation over one bank. -/
def bankGeometry (bank : Vector (Option MediaEntry) 16) (b : BeltEntry) : Bool :=
  bank.toList.all (fun e =>
    match e with
    | some m => decide ((m.length : Int) ≤ (b.pitchLength : Int) - (b.clearance : Int))
    | none => true)

/-- A relation with a table that may be undefined. -/
def whenDefined {α : Type} (t : Option α) (check : α → Bool) : Bool :=
  match t with
  | some v => check v
  | none => true

/-- The relations a station table takes part in. -/
def checkStation (v : Vector StationEntry 14) (t : TableStore) : Bool :=
  stationGeometry v && whenDefined t.segment (fun g => segmentGeometry g v)
    && whenDefined t.belt (fun b => stationBeltGeometry v b)

/-- The relations a segment table takes part in. -/
def checkSegment (g : SegmentTable) (t : TableStore) : Bool := whenDefined t.station (fun v => segmentGeometry g v)

/-- The relations a belt table takes part in; of the media banks, the active and the RETIRING one. -/
def checkBelt (b : BeltEntry) (t : TableStore) : Bool :=
  beltGeometry b && whenDefined t.station (fun v => stationBeltGeometry v b)
    && bankGeometry (bankEntries t t.active) b
    && (decide (t.inactive ≠ .retiring) || bankGeometry (bankEntries t (otherBank t.active)) b)

/-- The relations a media load takes part in; of the media banks, the buffer bank. -/
def checkMedia (t : TableStore) : Bool := whenDefined t.belt (fun b => bankGeometry (bankEntries t (otherBank t.active)) b)

/-! ## Ending a load (R158, R160, R161, R164) -/

/-- A load is discarded at its commit (R158). -/
def discardLoad (reason : DiscardReason) (table : TableName) (tag : Tag) (s : State) : State :=
  sendReport (.table table (.discarded reason) tag) (latch .loadDiscarded (dropLoad s))

/-- The TABLE report of a commit (R160, R162, R164). -/
def committedReport (table : TableName) (gen : Option Bank) (tag : Tag) (s : State) : State :=
  sendReport (.table table (.committed gen) tag) s

/-- The load is over with its buffer in hand. -/
def closeLoad (s : State) : State := { s with intake := { s.intake with load := none } }

/-- A committed station table (R160). -/
def commitStation (v : Vector StationEntry 14) (s : State) : State :=
  resample { s with tables := { s.tables with station := some v } }

/-- A counter after a segment commit: its scale set, its trim 0 where its entry was written (R6, R17). -/
def rescale (e : SegmentEntry) (wrote : Bool) (k : Counter) : Counter :=
  { k with nominal := some e.scale, trim := if wrote then 0 else k.trim }

/-- A committed segment table (R6, R17, R160). -/
def commitSegment (g : SegmentTable) (wroteMain wroteDuplex : Bool) (s : State) : State :=
  { s with
    tables := { s.tables with segment := some g }
    counters := { s.counters with
      main := rescale g.main wroteMain s.counters.main
      duplex := rescale g.duplex wroteDuplex s.counters.duplex } }

/-- A committed belt table (R6, R61, R160). -/
def commitBelt (b : BeltEntry) (s : State) : State :=
  desync { s with
    tables := { s.tables with belt := some b }
    counters := { s.counters with belt := { s.counters.belt with nominal := some b.scale } } }

/-- A committed MEDIA load: the LOADING bank becomes ACTIVE, the old one RETIRING or FREE (R164). -/
def commitMedia (s : State) : State :=
  { s with tables := { s.tables with
      active := otherBank s.tables.active
      inactive := if refsOf s.tables s.tables.active = 0 then .free else .retiring } }

/-- The entries of a buffer, where every one is defined. -/
def completeStation (v : Vector (Option StationEntry) 14) : Option (Vector StationEntry 14) :=
  let l := v.toList.filterMap id
  if h : l.length = 14 then some ⟨l.toArray, by simpa using h⟩ else none

/-- The commit of a load whose mark is CLEAN and whose path state admits it (R158, R160, R164). -/
def commitBuffer (tag : Tag) (l : Load) (s : State) : State :=
  match l.buffer with
  | .media =>
    if checkMedia s.tables then
      committedReport .media (some (otherBank s.tables.active)) tag (commitMedia (closeLoad s))
    else discardLoad .geometry .media tag s
  | .station v =>
    match completeStation v with
    | none => discardLoad .incomplete .station tag s
    | some v =>
      if checkStation v s.tables then committedReport .station none tag (commitStation v (closeLoad s))
      else discardLoad .geometry .station tag s
  | .segment (some m) (some d) =>
    if checkSegment ⟨m, d⟩ s.tables then
      committedReport .segment none tag (commitSegment ⟨m, d⟩ l.wroteMain l.wroteDuplex (closeLoad s))
    else discardLoad .geometry .segment tag s
  | .segment _ _ => discardLoad .incomplete .segment tag s
  | .belt none => discardLoad .incomplete .belt tag s
  | .belt (some b) =>
    if checkBelt b s.tables then committedReport .belt none tag (commitBelt b (closeLoad s))
    else discardLoad .geometry .belt tag s

/-- The commit of an open load with nothing remaining, judged in the order of R158. -/
def commitLoad (tag : Tag) (l : Load) (s : State) : State :=
  match l.mark with
  | .badField => discardLoad .field (loadTable l) tag s
  | .badLocked => discardLoad .locked (loadTable l) tag s
  | .clean =>
    if loadTable l ≠ .media ∧ pathParked s.path = false then discardLoad .state (loadTable l) tag s
    else commitBuffer tag l s

/-- A LOAD COMMIT record is taken (R157, R158, R161). -/
def takeLoadCommit (tag : Tag) (s : State) : State :=
  match s.intake.load with
  | none => refuse (some tag) (some .loadCommit) .noLoad s
  | some l =>
    if l.remaining = 0 then commitLoad tag l s
    else refuse (some tag) (some .loadCommit) .noLoad (interrupt tag s)

/-- A LOAD ABORT record is taken (R161). -/
def takeLoadAbort (tag : Tag) (s : State) : State :=
  match s.intake.load with
  | none => refuse (some tag) (some .loadAbort) .noLoad s
  | some l => sendReport (.table (loadTable l) (.discarded .aborted) tag) (dropLoad s)

/-! ## Locks (R166) -/

/-- The operation table of R166; none where UNLOCK is refused. -/
def lockAfter (o : LockOp) (k : LockState) : Option LockState :=
  match o, k with
  | .lock, .unlocked => some .locked
  | .lock, .locked => some .locked
  | .lock, .lockedDown => some .lockedDown
  | .unlock, .unlocked => some .unlocked
  | .unlock, .locked => some .unlocked
  | .unlock, .lockedDown => none
  | .lockDown, _ => some .lockedDown

/-- The largest index of a lockable table; SEGMENT and BELT have no locks. -/
def lockLimit : TableName → Nat
  | .media => 15
  | .station => 13
  | .segment | .belt => 0

/-- A lock state of a table. -/
def lockOf (t : TableStore) (table : TableName) (i : Nat) : LockState :=
  match table with
  | .media => t.mediaLocks[Fin.ofNat 16 i]
  | .station => t.stationLocks[Fin.ofNat 14 i]
  | .segment | .belt => .unlocked

/-- A lock state of a table set. -/
def setLock (table : TableName) (i : Nat) (k : LockState) (t : TableStore) : TableStore :=
  match table with
  | .media => { t with mediaLocks := t.mediaLocks.set (Fin.ofNat 16 i) k }
  | .station => { t with stationLocks := t.stationLocks.set (Fin.ofNat 14 i) k }
  | .segment | .belt => t

/-- A LOCK record is taken, any open load already abandoned (R166). That one whose operation names none of the three and whose
index is outside the named table is refused with BAD_FIELD is the model's choice: R166 gives no order of the two codes
(log 34). -/
def takeLock (tag : Tag) (body : List Byte) (s : State) : State :=
  let no (c : RefusalCode) := refuse (some tag) (some .lock) c s
  match parseLock body with
  | none => no .badField
  | some (o, table, i) =>
    if lockLimit table < i then no .outOfRange
    else
      match lockAfter o (lockOf s.tables table i) with
      | none => no .locked
      | some k => { s with tables := setLock table i k s.tables }

/-! ## Manual trim (R20) -/

/-- A SET TRIM record is taken, any open load already abandoned (R20). That an out-of-range value is refused as such where the
segment table is undefined too is the model's choice: R20 and R176 give no order of the two (log 31). -/
def takeSetTrim (tag : Tag) (body : List Byte) (s : State) : State :=
  let no (c : RefusalCode) := refuse (some tag) (some .setTrim) c s
  match parseSetTrim body with
  | none => no .badField
  | some (g, v) =>
    if v < -512 ∨ 511 < v then no .outOfRange
    else if s.tables.segment.isNone then no .tablesIncomplete
    else { s with counters := setCounter g { counterOf s.counters g with trim := v } s.counters }

end Sys2Proof.Machine
end

