-- ==== Sys2Proof/Machine/RunOps.lean ====
section
/-! DEFINITION. The Path Controller's records (R138 to R143, R149 to R151), the collator's part in a recovery and its
done line (R129, R131, R132), the conditions' records (R168, R170), the STATUS snapshot (R177) and the frames that
fail their check (R179). -/

namespace Sys2Proof.Machine

/-! ## START RUN, HALT, RESUME, END RUN (R138 to R143) -/

/-- The ranges of a START RUN's numbers (R138). -/
def startRunInRange (p : RunParams) : Bool := decide (p.setGap ≤ 3 ∧ 100 ≤ p.timeout ∧ p.timeout ≤ 5000)

/-- The tables START RUN needs (R138). -/
def tablesComplete (t : TableStore) : Bool :=
  t.station.isSome && t.segment.isSome && t.belt.isSome && (bankEntries t t.active).toList.any (fun e => e.isSome)

/-- The clearances START RUN needs (R138). -/
def startClear (s : State) : Bool :=
  sensorsClear s && shelfEmptyRead s && decide (s.collator.mode = .empty) && collatorReadyRead s
    && !stopSetActive s.path

/-- A START RUN is taken (R139, R177). -/
def beginRun (p : RunParams) (s : State) : State :=
  let s₁ := resample s
  let s₂ := { s₁ with
    path := { s₁.path with params := some p, runActive := true }
    sched := { s₁.sched with gap1 := 0, gap2 := 0, reservation := 0, blanks := 0 } }
  pathReport (driveStart (withPathState .running s₂))

/-- A START RUN record is judged, any open load already abandoned (R138). -/
def takeStartRun (tag : Tag) (body : List Byte) (s : State) : State :=
  let no (c : RefusalCode) := refuse (some tag) (some .startRun) c s
  if s.path.state ≠ .idle then no .wrongState
  else
    match parseStartRun body with
    | none => no .badField
    | some p =>
      if startRunInRange p = false then no .outOfRange
      else if tablesComplete s.tables = false then no .tablesIncomplete
      else if startClear s = false then no .notClear
      else beginRun p s

/-- A HALT record is taken (R140). -/
def takeHalt (tag : Tag) (s : State) : State :=
  match s.path.state with
  | .running => haltTest (setPathState .halting s)
  | .halting | .halted => s
  | .idle | .stopped => refuse (some tag) (some .halt) .wrongState s

/-- The run goes on from HALTED (R142, R177). -/
def resumeRun (s : State) : State :=
  pathReport (driveStart (withPathState .running { s with sched := { s.sched with blanks := 0 } }))

/-- A RESUME record is taken (R142). -/
def takeResume (tag : Tag) (s : State) : State :=
  let no (c : RefusalCode) := refuse (some tag) (some .resume) c s
  match s.path.state with
  | .halting => setPathState .running s
  | .running => s
  | .halted =>
    if stopConditionLatched s.report.latch then no .conditionsSet
    else if s.collator.mode = .empty ∧ collatorReadyRead s = true ∧ stopSetActive s.path = false then resumeRun s
    else no .notClear
  | .idle | .stopped => no .wrongState

/-- Every order leaves the queue with its reference (R37). -/
def discardOrders (s : State) : State := releaseRefs (s.orders.map (fun o => o.gen)) { s with orders := [] }

/-- One entry's part in the withdrawal at END RUN (R57, R59). -/
def withdrawReport (e : SetEntry) (s : State) : State :=
  if e.state = .failed then s else sendReport (.setDone e.set e.attempt .withdrawn 0) s

/-- Every entry withdrawn, oldest first (R57). -/
def withdrawAll (s : State) : State :=
  { s.registry.foldl (fun s e => withdrawReport e s) s with registry := [] }

/-- The run ends: the flag cleared, the parameters discarded (R136, R143, R151). -/
def clearRun (s : State) : State := { s with path := { s.path with runActive := false, params := none } }

/-- An END RUN record is taken (R143). -/
def takeEndRun (tag : Tag) (s : State) : State :=
  let no (c : RefusalCode) := refuse (some tag) (some .endRun) c s
  match s.path.state with
  | .halted =>
    if s.collator.mode ≠ .empty then no .notClear
    else setPathState .idle (clearRun (withdrawAll (discardOrders s)))
  | .idle | .running | .halting | .stopped => no .wrongState

/-! ## PATH CLEARED (R131, R132, R149, R150) -/

/-- The clearances PATH CLEARED needs (R149). -/
def pathIsClear (s : State) : Bool :=
  atRest s.path && sensorsClear s && shelfEmptyRead s && !lineStopActive s.path

/-- What the collator does at a recovery (R131). -/
def collatorRecover (s : State) : State :=
  match s.collator.mode with
  | .collecting => issueDump s
  | .faulted => if collatorReadyRead s then { s with collator := collatorEmptied s.collator } else s
  | .empty | .pushing | .dumping => s

/-- The set the collator gives up at a recovery (R131, R132; log 35). -/
def collatorHands (s : State) : Option SetNumber :=
  match s.collator.mode with
  | .collecting => s.collator.held.map (fun h => h.set)
  | .faulted => if collatorReadyRead s then s.collator.held.map (fun h => h.set) else none
  | .empty | .pushing | .dumping => none

/-- The fault stop inactive, the stop record discarded (R150, R151). -/
def clearStop (s : State) : State := { s with path := { s.path with faultStop := false, stopRecord := none } }

/-- The set of the sheet the stop named (R48, R146). -/
def namedSet (p : PathControl) : Option SetNumber := (p.stopRecord.bind (fun r => r.named)).map (fun n => n.sheet.set)

/-- A FAULTED collator found not ready raises the fault stop anew (R132). -/
def refault (s : State) : State :=
  raiseFault { cause := .collatorFault, station := none, named := none, deviation := none } (latch .collatorFault s)

/-- The eight steps of a recovery (R150). The set that a FAULTED collator, not ready, holds is not handed for its being held
(R132); where a sheet of it was also in the path, or was the one the stop named, it is handed for that (R48). That R48 prevails
there over R132's "not handed", and the set is spoiled STRANDED, is the model's reading (log 35, DEDUCED); and so it is that the
cascade of strandSets, in STRICT, takes that set where it is younger than a set stranded. -/
def recover (s : State) : State :=
  let handed := s.tracker.table.map (fun e => e.sheet.set) ++ (collatorHands s).toList
  let s' := clearStop (strandSets handed (namedSet s.path) (collatorRecover (flushScheduler (flushSheets (resample s)))))
  setPathState (if s.path.runActive then .halted else .idle) s'

/-- A PATH CLEARED record is taken (R149, R150, R132). -/
def takePathCleared (tag : Tag) (s : State) : State :=
  let no (c : RefusalCode) := refuse (some tag) (some .pathCleared) c s
  if s.path.state ≠ .stopped then no .wrongState
  else if pathIsClear s = false then no .notClear
  else if s.collator.mode = .faulted ∧ collatorReadyRead s = false then refault (recover s)
  else recover s

/-! ## RUN RESET (R151) -/

/-- The blocks' effects of RUN RESET, before the new path state (R151). -/
def resetRun (s : State) : State :=
  let s₁ := flushSheets (flushScheduler { discardOrders (resample (dropLoad s)) with registry := [] })
  let s₂ := clearStop (clearRun (driveStop s₁))
  { s₂ with
    collator := collatorEmptied s₂.collator
    sched := { s₂.sched with blanks := 0 }
    report := { s₂.report with queue := [], latch := 0 } }

/-- The stop record of a RUN RESET that finds paper. -/
def paperStop : StopRecord := { cause := .resetWithPaper, station := none, named := none, deviation := none }

/-- A RUN RESET record is taken (R151). -/
def takeRunReset (s : State) : State :=
  let s' := resetRun s
  if sensorsClear s = true ∧ shelfEmptyRead s = true then setPathState .idle s'
  else
    let s'' := latch .jam s'
    enterStopped paperStop { s'' with path := { s''.path with faultStop := true } }

/-! ## QUERY, CLEAR CONDITIONS, SET MASK (R168, R170, R177) -/

/-- The diverter's state as STATUS shows it. -/
def diverterKind : Diverter → DiverterKind
  | .free => .free
  | .set _ => .set
  | .busy _ => .busy

/-- The snapshot of the part (R177). -/
def snapshot (s : State) : StatusSnapshot :=
  { pathState := s.path.state, runActive := s.path.runActive
    params := if s.path.runActive then s.path.params else none
    stopUpstream := s.path.stopUpstream, stopCollator := s.path.stopCollator, stopPanel := s.path.stopPanel
    stopFault := s.path.faultStop
    stopCause := if s.path.state = .stopped then s.path.stopRecord.map (fun r => r.cause) else none
    atRest := atRest s.path, latch := s.report.latch, mask := s.report.mask
    orders := s.orders.length, registry := s.registry.length, tracks := s.tracker.table.length
    shelf := s.shelf.length, reservation := s.sched.reservation, ring := s.sched.ring.length
    reports := s.report.queue.length, blanks := s.sched.blanks
    collator := s.collator.mode, held := s.collator.held, collected := s.collator.list.length
    diverter := diverterKind s.tracker.diverter, diverterLine := s.tracker.line
    trimMain := s.counters.main.trim, trimDuplex := s.counters.duplex.trim
    synced := s.sched.seam.isSome
    activeBank := s.tables.active
    retiringBank := if s.tables.inactive = .retiring then some (otherBank s.tables.active) else none
    load := s.intake.load.map loadTable
    mediaLocks := s.tables.mediaLocks, stationLocks := s.tables.stationLocks }

/-- A QUERY record is taken (R177). -/
def takeQuery (s : State) : State := sendReport (.status (snapshot s)) s

/-- A CLEAR CONDITIONS record is taken (R170). -/
def takeClear (tag : Tag) (body : List Byte) (s : State) : State :=
  match parseConditions body with
  | none => refuse (some tag) (some .clearConditions) .badField s
  | some named => { s with report := { s.report with latch := clearNamed s.report.latch named } }

/-- A SET MASK record is taken (R168). -/
def takeSetMask (tag : Tag) (body : List Byte) (s : State) : State :=
  match parseConditions body with
  | none => refuse (some tag) (some .setMask) .badField s
  | some mask => { s with report := { s.report with mask := mask } }

/-! ## The links (R172, R176, R179, R181) -/

/-- The frame at the head of the buffer comes to its turn and fails its check (R176, R179; log 10). -/
def badFrame (s : State) : State :=
  if s.intake.held.isSome then s
  else
    match s.intake.rx.frames with
    | [] => s
    | f :: rest =>
      if frameGood f then s
      else nextTurn (refuse none none .badFrame (withReceiver (rescan f rest s.intake.rx.collecting s.intake.rx.gap) s))

/-- The outward side takes the head of the report queue while controller ready is asserted (R172, R181). -/
def transmit (s : State) : State :=
  match s.report.queue, s.inputs.controllerReady with
  | r :: rest, true => { s with report := { s.report with queue := rest }, orderOut := s.orderOut ++ [reportFrame r] }
  | _, _ => s

/-- Bytes arrive on the imager link's inward side, and hunting runs over what is in hand (R81, R182; log 19). -/
def imagerBytes (bytes : List Byte) (s : State) : State :=
  let inHand := s.imager.rx ++ bytes
  let r := imagerScan inHand.length inHand
  r.1.foldl (fun s f => imageFault f.1 f.2 s) { s with imager := { s.imager with rx := r.2 } }

/-! ## The collator's done line (R129) -/

/-- A push is done: the set is delivered and its entry removed; in STRICT, a set that a spoil reached while it was
pushed is walked from as if it had left SPOILED (R51, R56, R59, R129; log 27). -/
def delivered (h : HeldSet) (s : State) : State :=
  match findSet h.set s.registry with
  | none => s
  | some e =>
    let s' := removeSet h.set (sendReport (.setDone h.set h.attempt .delivered e.collected) s)
    if e.state = .spoiled ∧ strict s = true then heldWalk ((younger h.set s.registry).map (fun o => o.set)) s' else s'

/-- The done line becomes asserted (R129). -/
def collatorDone (s : State) : State :=
  let s' := { s with collator := collatorEmptied s.collator }
  match s.collator.mode, s.collator.held with
  | .pushing, some h => delivered h s'
  | .dumping, some h => drainCheck h.set s'
  | .pushing, none | .dumping, none => s'
  | _, _ => s

end Sys2Proof.Machine
end

