-- ==== Sys2Proof/Machine/Belt.lean ====
section
/-! DEFINITION. The meanings of the seam mark, the pitch commit event, feed starts, releases and the gate close point
(R62 to R79). -/

namespace Sys2Proof.Machine

/-- SEAM_MARK (R13, R62 to R65). -/
def execSeamMark (drawers : DrawerLines) (s : State) : Host.Outcome State Fault Refusal :=
  .next (withRetry (withHaltTest seamMark) (readDrawers drawers s))

/-- SEAM_WATCH_POINT (R65). -/
def execSeamWatchPoint (s : State) : Host.Outcome State Fault Refusal :=
  .next (withRetry (deliver .seamWatch (fun _ s => if s.sched.seam.isSome then beltSlip none s else s)) s)

/-- PITCH_COMMIT_EVENT (R66 to R74). -/
def execPitchCommitEvent (drawers : DrawerLines) (s : State) : Host.Outcome State Fault Refusal :=
  .next (withRetry (withHaltTest pitchEvent) (readDrawers drawers s))

/-- FEED_START (R75). -/
def execFeedStart (sheet : SheetId) (s : State) : Host.Outcome State Fault Refusal :=
  .next (deliver (.feedStart sheet) (feedStartReached sheet) s)

/-- RELEASE (R77 to R79). -/
def execRelease (s : State) : Host.Outcome State Fault Refusal :=
  .next (withRetry (withHaltTest (deliver .release (fun _ s => if pathMoving s.path then releaseHead s else s))) s)

/-- GATE_CLOSE_POINT (R79). -/
def execGateClosePoint (s : State) : Host.Outcome State Fault Refusal :=
  .next (deliver .gateClose (fun _ s => closeGate s) s)

end Sys2Proof.Machine
end

