-- ==== Sys2Proof/Machine/Lines.lean ====
section
/-! DEFINITION. The meanings of the stop lines, the collator's lines and timer, and at rest (R127, R129, R130, R144,
R148). -/

namespace Sys2Proof.Machine

/-- A line source is active (R144). -/
def lineActive (l : StopLine) (p : PathControl) : Bool :=
  match l with
  | .upstream => p.stopUpstream | .collator => p.stopCollator | .panel => p.stopPanel

/-- A line source made active or inactive (R144). -/
def setLine (l : StopLine) (on : Bool) (p : PathControl) : PathControl :=
  match l with
  | .upstream => { p with stopUpstream := on }
  | .collator => { p with stopCollator := on }
  | .panel => { p with stopPanel := on }

/-- The stop record of an external stop (R144). -/
def externalStop : StopRecord := { cause := .externalStop, station := none, named := none, deviation := none }

/-- A line source becomes active (R144). -/
def lineAsserted (l : StopLine) (s : State) : State :=
  let s' := latch .externalStop { s with path := setLine l true s.path }
  if pathMoving s.path then enterStopped externalStop s' else s'

/-- STOP_LINE_ASSERTED (R144, R146); a line that stands asserted is not an event (R183). -/
def execStopLineAsserted (line : StopLine) (s : State) : Host.Outcome State Fault Refusal :=
  .next (if lineActive line s.path then s else withRetry (lineAsserted line) s)

/-- STOP_LINE_RELEASED (R144). -/
def execStopLineReleased (line : StopLine) (s : State) : Host.Outcome State Fault Refusal :=
  .next { s with path := setLine line false s.path }

/-- COLLATOR_DONE (R51, R56, R129). -/
def execCollatorDone (s : State) : Host.Outcome State Fault Refusal := .next (withRetry (withHaltTest collatorDone) s)

/-- COLLATOR_FAULT_LINE (R130). -/
def execCollatorFaultLine (s : State) : Host.Outcome State Fault Refusal := .next (withRetry collatorFault s)

/-- The ms a timer that can expire still lacks to its timeout: one that runs in PUSHING or DUMPING (R127). -/
def timerLacks (s : State) : Option Nat :=
  if s.collator.mode = .pushing ∨ s.collator.mode = .dumping then s.collator.timer.map (fun t => t.timeout - t.elapsed)
  else none

/-- The collator timer counts the ms it lacks and has then expired: the collator faults (R127, R130; log 2). -/
def timerExpires (s : State) : State :=
  match timerLacks s with
  | none => s
  | some k => collatorFault (elapse k s)

/-- d ms pass; a timer that reaches its timeout among them expires at that moment (R127, R130). -/
def passTime (d : Nat) (s : State) : State :=
  match timerLacks s with
  | none => elapse d s
  | some k => if k ≤ d then elapse (d - k) (timerExpires s) else elapse d s

/-- What the block does where no command waits: one tick of the millisecond clock (R127, R148, R175, R179; log 1). -/
def tick (s : State) : State := withRetry (passTime 1) s

/-- COLLATOR_TIMER_EXPIRY (R127, R130). -/
def execCollatorTimerExpiry (s : State) : Host.Outcome State Fault Refusal := .next (withRetry timerExpires s)

/-- AT_REST (R148): the silence measure reaches 200 ms (R127; log 2). -/
def execAtRest (s : State) : Host.Outcome State Fault Refusal := .next (withRetry (passTime (restSilence - s.path.silence)) s)

end Sys2Proof.Machine
end

