-- ==== Sys2Proof/Machine/Links.lean ====
section
/-! DEFINITION. The meanings of what happens on the order link and the imager link beside the named records. -/

namespace Sys2Proof.Machine

/-- UNKNOWN_KIND_RECORD (R180): refused with BAD_FIELD, kind NONE, an open load interrupted. A kind that names a
record kind is no such record and has no effect (log 25). -/
def execUnknownKindRecord (kind : Byte) (tag : Tag) (body : List Byte) (s : State) : Host.Outcome State Fault Refusal :=
  .next (if kindKnown kind then s
    else intake kind tag body (fun s => refuse (some tag) none .badField (interrupt tag s)) s)

/-- BAD_FRAME (R176, R179). -/
def execBadFrame (s : State) : Host.Outcome State Fault Refusal := .next (badFrame s)

/-- INTER_BYTE_GAP (R179). -/
def execInterByteGap (s : State) : Host.Outcome State Fault Refusal :=
  .next (arrive receiveGap s)

/-- REPORT_TRANSMIT (R172, R181). -/
def execReportTransmit (controllerReady : Bool) (s : State) : Host.Outcome State Fault Refusal :=
  .next (transmit { s with inputs := { s.inputs with controllerReady := controllerReady } })

/-- IMAGE_FAULT (R81, R182): the IMAGE FAULT frame of a pitch and handle arrives. -/
def execImageFault (pitch : Byte) (handle : Handle) (s : State) : Host.Outcome State Fault Refusal :=
  .next (withRetry (withHaltTest (imagerBytes (imageFaultFrame pitch handle))) s)

/-- IMAGER_FRAME_DISCARD (R182): the bytes of an inbound frame that is no good IMAGE FAULT arrive. -/
def execImagerFrameDiscard (frame : List Byte) (s : State) : Host.Outcome State Fault Refusal :=
  .next (withRetry (withHaltTest (imagerBytes frame)) s)

/-- ORDER_LINK_BYTE (R179, R181). -/
def execOrderLinkByte (byte : Byte) (s : State) : Host.Outcome State Fault Refusal :=
  .next (arrive (fun rx => receiveByte rx byte) s)

end Sys2Proof.Machine
end

