-- ==== Sys2Proof/Machine/Records.lean ====
section
/-! DEFINITION. The meanings of power-on reset and of the records of sheets, runs and conditions. -/

namespace Sys2Proof.Machine

/-- The level-read lines a record's rule reads, as the record finds them (log 4). -/
def readShelfAndReady (shelfEmpty collatorReady : Wire) (s : State) : State :=
  { s with inputs := { s.inputs with shelfEmpty := shelfEmpty, collatorReady := collatorReady } }

/-- The collator ready line as a record finds it (log 4). -/
def readReady (collatorReady : Wire) (s : State) : State :=
  { s with inputs := { s.inputs with collatorReady := collatorReady } }

/-- The shelf-empty line as a record finds it (log 4). -/
def readShelf (shelfEmpty : Wire) (s : State) : State := { s with inputs := { s.inputs with shelfEmpty := shelfEmpty } }

/-- A station at power-on: the level equal to the line (R15). -/
def stationAtPowerOn (blocked : Bool) : StationState := { line := blocked, level := blocked, edge := none }

/-- The stations at power-on, each line read by its sense (R15, R183). -/
def stationsAtPowerOn (sensors : Vector Wire 14) : Vector StationState 14 :=
  Vector.ofFn (fun i => stationAtPowerOn (asserted (.sensor (stationAt i)) sensors[i]))

/-- The reset state with the lines as power-on finds them, the collator's done and fault lines not yet acted on (R15, R152,
R183). -/
def poweredOn (lines : PowerOnLines) : State :=
  { State.reset with
    inputs := { drawers := lines.drawers, shelfEmpty := lines.shelfEmpty, collatorReady := lines.collatorReady
                controllerReady := lines.controllerReady }
    stations := stationsAtPowerOn lines.sensors
    path := { PathControl.reset with
      stopUpstream := asserted (.stop .upstream) lines.stopUpstream
      stopCollator := asserted (.stop .collator) lines.stopCollator
      stopPanel := asserted (.stop .panel) lines.stopPanel } }

/-- POWER_ON_RESET (R6, R15, R37, R58, R82, R110, R120, R134, R152, R153, R163, R166, R168, R171, R175, R178, R181,
R183): the initial state; then a done line standing asserted, which an EMPTY collator ignores, and a fault line
standing asserted, which faults it (R129, R130, R183). -/
def execPowerOnReset (lines : PowerOnLines) (s : State) : Host.Outcome State Fault Refusal :=
  let s' := { poweredOn lines with pending := s.pending }
  let s'' := if asserted .collatorDone lines.collatorDone then collatorDone s' else s'
  .next (if asserted .collatorFault lines.collatorFault then collatorFault s'' else s'')

/-- SHEET (R24 to R40). -/
def execSheet (tag : Tag) (body : List Byte) (s : State) : Host.Outcome State Fault Refusal :=
  .next (withRetry (withHaltTest (plainRecord .sheet tag body (takeSheet tag body))) s)

/-- HELD_SHEET_RETRY (R39, R40). -/
def execHeldSheetRetry (s : State) : Host.Outcome State Fault Refusal := .next (withHaltTest retrySheet s)

/-- START_RUN (R136, R138, R139). -/
def execStartRun (tag : Tag) (body : List Byte) (shelfEmpty collatorReady : Wire) (s : State) :
    Host.Outcome State Fault Refusal :=
  .next (plainRecord .startRun tag body (takeStartRun tag body) (readShelfAndReady shelfEmpty collatorReady s))

/-- HALT (R140, R141). -/
def execHalt (tag : Tag) (body : List Byte) (s : State) : Host.Outcome State Fault Refusal :=
  .next (bodilessRecord .halt tag body (fun s => takeHalt tag (interrupt tag s)) s)

/-- RESUME (R142). -/
def execResume (tag : Tag) (body : List Byte) (collatorReady : Wire) (s : State) : Host.Outcome State Fault Refusal :=
  .next (bodilessRecord .resume tag body (fun s => takeResume tag (interrupt tag s)) (readReady collatorReady s))

/-- END_RUN (R57, R143). -/
def execEndRun (tag : Tag) (body : List Byte) (s : State) : Host.Outcome State Fault Refusal :=
  .next (bodilessRecord .endRun tag body (fun s => takeEndRun tag (interrupt tag s)) s)

/-- PATH_CLEARED (R48, R131, R132, R149, R150). -/
def execPathCleared (tag : Tag) (body : List Byte) (shelfEmpty collatorReady : Wire) (s : State) :
    Host.Outcome State Fault Refusal :=
  .next (bodilessRecord .pathCleared tag body (fun s => takePathCleared tag (interrupt tag s))
    (readShelfAndReady shelfEmpty collatorReady s))

/-- RUN_RESET (R151): an open load is abandoned without a report. -/
def execRunReset (tag : Tag) (body : List Byte) (shelfEmpty : Wire) (s : State) : Host.Outcome State Fault Refusal :=
  .next (bodilessRecord .runReset tag body takeRunReset (readShelf shelfEmpty s))

/-- QUERY (R177). -/
def execQuery (tag : Tag) (body : List Byte) (s : State) : Host.Outcome State Fault Refusal :=
  .next (bodilessRecord .query tag body (fun s => takeQuery (interrupt tag s)) s)

/-- CLEAR_CONDITIONS (R170). -/
def execClearConditions (tag : Tag) (body : List Byte) (s : State) : Host.Outcome State Fault Refusal :=
  .next (plainRecord .clearConditions tag body (takeClear tag body) s)

/-- SET_MASK (R168). -/
def execSetMask (tag : Tag) (body : List Byte) (s : State) : Host.Outcome State Fault Refusal :=
  .next (plainRecord .setMask tag body (takeSetMask tag body) s)

end Sys2Proof.Machine
end

