-- ==== Sys2Proof/Machine/Sheets.lean ====
section
/-! DEFINITION. The meanings of the lead deadline, the trail deadline and the settle point (R88, R96, R115). -/

namespace Sys2Proof.Machine

/-- A lead deadline reached: LEAD_OVERDUE at the entry's next station, no deviation (R85, R88). -/
def leadOverdue (id : SheetId) (s : State) : State :=
  if pathMoving s.path then
    match findTrack id s.tracker.table with
    | none => s
    | some e =>
      match e.next with
      | none => s
      | some st => jam .leadOverdue st (some (nameOf e)) none s
  else s

/-- LEAD_DEADLINE (R88). -/
def execLeadDeadline (sheet : SheetId) (s : State) : Host.Outcome State Fault Refusal :=
  .next (withRetry (deliver (.leadDeadline sheet) (fun _ s => leadOverdue sheet s)) s)

/-- A trail deadline reached: TRAIL_OVERDUE at the station where the trail is pending, no deviation (R85, R96). -/
def trailOverdue (id : SheetId) (s : State) : State :=
  if pathMoving s.path then
    match findTrack id s.tracker.table with
    | none => s
    | some e =>
      match e.trail with
      | none => s
      | some t => jam .trailOverdue t.station (some (nameOf e)) none s
  else s

/-- TRAIL_DEADLINE (R96). -/
def execTrailDeadline (sheet : SheetId) (s : State) : Host.Outcome State Fault Refusal :=
  .next (withRetry (deliver (.trailDeadline sheet) (fun _ s => trailOverdue sheet s)) s)

/-- A shelf entry's settled flag is set (R115). -/
def settleEntry (id : SheetId) (s : State) : State :=
  { s with shelf := s.shelf.map (fun e => if e.sheet = id then { e with settled := true } else e) }

/-- SETTLE_POINT (R115). -/
def execSettlePoint (sheet : SheetId) (s : State) : Host.Outcome State Fault Refusal :=
  .next (deliver (.settle sheet) (fun _ s => settleEntry sheet s) s)

end Sys2Proof.Machine
end

