-- ==== Sys2Proof/Machine/Tables.lean ====
section
/-! DEFINITION. The meanings of the records of the tables: locks, trim and loads. -/

namespace Sys2Proof.Machine

/-- LOCK (R166): a LOCK record whose operation is LOCK, or one that is malformed. -/
def execLock (tag : Tag) (body : List Byte) (s : State) : Host.Outcome State Fault Refusal :=
  .next (plainRecord .lock tag body (takeLock tag body) s)

/-- UNLOCK (R166). -/
def execUnlock (tag : Tag) (rest : List Byte) (s : State) : Host.Outcome State Fault Refusal :=
  .next (plainRecord .lock tag (unlockByte :: rest) (takeLock tag (unlockByte :: rest)) s)

/-- LOCK_DOWN (R166). -/
def execLockDown (tag : Tag) (rest : List Byte) (s : State) : Host.Outcome State Fault Refusal :=
  .next (plainRecord .lock tag (lockDownByte :: rest) (takeLock tag (lockDownByte :: rest)) s)

/-- SET_TRIM (R20). -/
def execSetTrim (tag : Tag) (body : List Byte) (s : State) : Host.Outcome State Fault Refusal :=
  .next (plainRecord .setTrim tag body (takeSetTrim tag body) s)

/-- LOAD_BEGIN (R154, R157). -/
def execLoadBegin (tag : Tag) (body : List Byte) (s : State) : Host.Outcome State Fault Refusal :=
  .next (intake (recordKindCode .loadBegin) tag body (takeLoadBegin tag body) s)

/-- LOAD_ENTRY (R155, R156, R157). -/
def execLoadEntry (tag : Tag) (body : List Byte) (s : State) : Host.Outcome State Fault Refusal :=
  .next (intake (recordKindCode .loadEntry) tag body (takeLoadEntry tag body) s)

/-- LOAD_COMMIT (R157 to R160, R164). -/
def execLoadCommit (tag : Tag) (body : List Byte) (s : State) : Host.Outcome State Fault Refusal :=
  .next (bodilessRecord .loadCommit tag body (takeLoadCommit tag) s)

/-- LOAD_ABORT (R161). -/
def execLoadAbort (tag : Tag) (body : List Byte) (s : State) : Host.Outcome State Fault Refusal :=
  .next (bodilessRecord .loadAbort tag body (takeLoadAbort tag) s)

end Sys2Proof.Machine
end

