-- ==== Sys2Proof/Machine/Travel.lean ====
section
/-! DEFINITION. The meanings of encoder counts and sensor changes (R1 to R15). -/

namespace Sys2Proof.Machine

/-- Encoder activity on any segment: the silence measure becomes 0 (R2, R148). -/
def encoderActivity (s : State) : State := { s with path := { s.path with silence := 0 } }

/-- The phase lines after a forward count (R2; log 20). -/
def stepForward (k : Counter) : Counter := { k with phaseA := !k.phaseB, phaseB := k.phaseA }

/-- The phase lines after a reverse count (R2; log 20). -/
def stepReverse (k : Counter) : Counter := { k with phaseA := k.phaseB, phaseB := !k.phaseA }

/-- Both phase lines change (R2). -/
def stepBoth (k : Counter) : Counter := { k with phaseA := !k.phaseA, phaseB := !k.phaseB }

/-- The carry of a forward count: the sum of F and E divided by 4,096 (R3). -/
def carryOf (k : Counter) (e : Int) : Int := ((k.fraction : Int) + e) / 4096

/-- A counter after a forward count that adds the effective scale e (R3). -/
def addScale (k : Counter) (e : Int) : Counter :=
  { k with position := plus k.position (carryOf k e), fraction := (((k.fraction : Int) + e) % 4096).toNat }

/-- A forward count at a segment, beyond its phase lines (R3, R5). -/
def countForward (g : Segment) (k : Counter) (s : State) : State :=
  if 0 < k.debt then { s with counters := setCounter g { k with debt := k.debt - 1 } s.counters }
  else
    match effectiveScale k with
    | none => { s with counters := setCounter g k s.counters }
    | some e =>
      let k' := addScale k e
      { s with
        counters := setCounter g k' s.counters
        points := if carryOf k e = 0 then s.points else markReached g k'.position s.points }

/-- FORWARD_COUNT (R2, R3, R5, R148): the events of the points its carry reaches are delivered at it, among the line changes
that fall in its travel. -/
def execForwardCount (count : ForwardCount) (s : State) : Host.Outcome State Fault Refusal :=
  let lines := linesAhead count.lines s.pending
  .next (withPassagesAmong lines (countForward count.segment (stepForward (counterOf s.counters count.segment)))
    (encoderActivity (readDrawers count.drawers { s with pending := s.pending.drop lines.length })))

/-- A counter's debt after a reverse count, held at 255 (R4). -/
def addDebt (k : Counter) : Counter := { k with debt := if k.debt < 255 then k.debt + 1 else k.debt }

/-- REVERSE_COUNT (R2, R4, R148). -/
def execReverseCount (segment : Segment) (s : State) : Host.Outcome State Fault Refusal :=
  let k := addDebt (stepReverse (counterOf s.counters segment))
  .next { encoderActivity s with counters := setCounter segment k s.counters }

/-- PHASE_ERROR (R2, R148). -/
def execPhaseError (segment : Segment) (s : State) : Host.Outcome State Fault Refusal :=
  .next { encoderActivity s with counters := setCounter segment (stepBoth (counterOf s.counters segment)) s.counters }

/-- A station's capture state replaced. -/
def setStation (st : Station) (k : StationState) (s : State) : State :=
  { s with stations := s.stations.set (stationId st) k }

/-- A raw transition opens a pending edge, confirmed at once where H is 0 (R9). -/
def openEdge (st : Station) (k : StationState) (s : State) : State :=
  let p := segPos s (stationSegment st)
  let edge : PendingEdge := { blocked := !k.line, raw := p }
  let s' := setStation st { k with line := !k.line, edge := some edge } s
  let h := (stationEntry s.tables st).debounce
  if h = 0 then confirmEdge st edge s' else placePoint (stationSegment st) (plus p h) (.debounce st) s'

/-- A station's sensor line changes its level (R9, R10, R14). -/
def lineChange (st : Station) (s : State) : State :=
  let k := s.stations[stationId st]
  if s.tables.station.isNone then setStation st { k with line := !k.line, level := !k.line } s
  else
    match k.edge with
    | some _ => dropPoint (.debounce st) (setStation st { k with line := !k.line, edge := none } s)
    | none => openEdge st k s

/-- SENSOR_CHANGE (R8 to R12, R14; log 17). -/
def execSensorChange (station : Station) (s : State) : Host.Outcome State Fault Refusal :=
  .next (withRetry (withHaltTest (withPassages (lineChange station))) s)

/-- The debounce point of a pending edge is reached (R11). -/
def debounceReached (st : Station) (s : State) : State :=
  match (s.stations[stationId st]).edge with
  | none => s
  | some edge => confirmEdge st edge s

/-- DEBOUNCE_POINT_REACHED (R5, R11, R12). -/
def execDebouncePointReached (station : Station) (s : State) : Host.Outcome State Fault Refusal :=
  .next (withRetry (withHaltTest (deliver (.debounce station) (fun _ s => debounceReached station s))) s)

end Sys2Proof.Machine
end

