-- ==== Sys2Proof/Machine/Dispatch.lean ====
section
/-! DEFINITION. The dispatch: one arm per command, each a direct call of its meaning. -/

namespace Sys2Proof.Machine

/-- The effect of a command on everything but the queue. -/
def exec (i : Instr) (s : State) : Host.Outcome State Fault Refusal :=
  match i with
  | .powerOnReset lines => Sys2Proof.Machine.execPowerOnReset lines s
  | .sheet tag body => Sys2Proof.Machine.execSheet tag body s
  | .heldSheetRetry => Sys2Proof.Machine.execHeldSheetRetry s
  | .startRun tag body shelfEmpty collatorReady => Sys2Proof.Machine.execStartRun tag body shelfEmpty collatorReady s
  | .halt tag body => Sys2Proof.Machine.execHalt tag body s
  | .resume tag body collatorReady => Sys2Proof.Machine.execResume tag body collatorReady s
  | .endRun tag body => Sys2Proof.Machine.execEndRun tag body s
  | .pathCleared tag body shelfEmpty collatorReady => Sys2Proof.Machine.execPathCleared tag body shelfEmpty collatorReady s
  | .runReset tag body shelfEmpty => Sys2Proof.Machine.execRunReset tag body shelfEmpty s
  | .query tag body => Sys2Proof.Machine.execQuery tag body s
  | .clearConditions tag body => Sys2Proof.Machine.execClearConditions tag body s
  | .setMask tag body => Sys2Proof.Machine.execSetMask tag body s
  | .lock tag body => Sys2Proof.Machine.execLock tag body s
  | .unlock tag rest => Sys2Proof.Machine.execUnlock tag rest s
  | .lockDown tag rest => Sys2Proof.Machine.execLockDown tag rest s
  | .setTrim tag body => Sys2Proof.Machine.execSetTrim tag body s
  | .loadBegin tag body => Sys2Proof.Machine.execLoadBegin tag body s
  | .loadEntry tag body => Sys2Proof.Machine.execLoadEntry tag body s
  | .loadCommit tag body => Sys2Proof.Machine.execLoadCommit tag body s
  | .loadAbort tag body => Sys2Proof.Machine.execLoadAbort tag body s
  | .unknownKindRecord kind tag body => Sys2Proof.Machine.execUnknownKindRecord kind tag body s
  | .badFrame => Sys2Proof.Machine.execBadFrame s
  | .interByteGap => Sys2Proof.Machine.execInterByteGap s
  | .reportTransmit controllerReady => Sys2Proof.Machine.execReportTransmit controllerReady s
  | .imageFault pitch handle => Sys2Proof.Machine.execImageFault pitch handle s
  | .imagerFrameDiscard frame => Sys2Proof.Machine.execImagerFrameDiscard frame s
  | .forwardCount count => Sys2Proof.Machine.execForwardCount count s
  | .reverseCount segment => Sys2Proof.Machine.execReverseCount segment s
  | .phaseError segment => Sys2Proof.Machine.execPhaseError segment s
  | .sensorChange station => Sys2Proof.Machine.execSensorChange station s
  | .debouncePointReached station => Sys2Proof.Machine.execDebouncePointReached station s
  | .seamMark drawers => Sys2Proof.Machine.execSeamMark drawers s
  | .seamWatchPoint => Sys2Proof.Machine.execSeamWatchPoint s
  | .pitchCommitEvent drawers => Sys2Proof.Machine.execPitchCommitEvent drawers s
  | .feedStart sheet => Sys2Proof.Machine.execFeedStart sheet s
  | .release => Sys2Proof.Machine.execRelease s
  | .gateClosePoint => Sys2Proof.Machine.execGateClosePoint s
  | .leadDeadline sheet => Sys2Proof.Machine.execLeadDeadline sheet s
  | .trailDeadline sheet => Sys2Proof.Machine.execTrailDeadline sheet s
  | .settlePoint sheet => Sys2Proof.Machine.execSettlePoint sheet s
  | .stopLineAsserted line => Sys2Proof.Machine.execStopLineAsserted line s
  | .stopLineReleased line => Sys2Proof.Machine.execStopLineReleased line s
  | .collatorDone => Sys2Proof.Machine.execCollatorDone s
  | .collatorFaultLine => Sys2Proof.Machine.execCollatorFaultLine s
  | .collatorTimerExpiry => Sys2Proof.Machine.execCollatorTimerExpiry s
  | .atRest => Sys2Proof.Machine.execAtRest s
  | .orderLinkByte byte => Sys2Proof.Machine.execOrderLinkByte byte s

end Sys2Proof.Machine
end

