-- ==== Sys2Proof/Safety.lean ====
section
/-! DEFINITION. What counts as a safe state, in the spec's own claims about the whole part: the laws every step keeps,
and the words the statements use. -/

namespace Sys2Proof.Machine

/-! ## The laws -/

/-- The path, its drives and its stop sources (R62, R76, R135 to R137, R144 to R146): the drives run exactly while the
path is RUNNING or HALTING, and then no stop source is active; the fault stop and the stop record belong to STOPPED;
the run parameters are stored exactly while the run is active; with the drives stopped the belt is UNSYNCED and every
clutch released. -/
def PathLaw (s : State) : Prop :=
  s.path.drives = pathMoving s.path
    ∧ (pathMoving s.path = true → stopSetActive s.path = false)
    ∧ (s.path.faultStop = true → s.path.state = .stopped)
    ∧ s.path.stopRecord.isSome = decide (s.path.state = .stopped)
    ∧ s.path.params.isSome = s.path.runActive
    ∧ (s.path.state = .idle → s.path.runActive = false)
    ∧ (pathMoving s.path = true ∨ s.path.state = .halted → s.path.runActive = true)
    ∧ (s.path.drives = false → s.sched.seam = none ∧ s.sched.clutches = Clutches.released)

/-- The capacities (R35, R41, R83, R112, R172, R177, R179). -/
def CapacityLaw (s : State) : Prop :=
  s.orders.length ≤ orderCapacity ∧ s.registry.length ≤ registryCapacity
    ∧ s.tracker.table.length ≤ trackCapacity ∧ s.report.queue.length ≤ reportCapacity
    ∧ s.sched.reservation ≤ 5 ∧ s.sched.blanks ≤ blankLimit ∧ receiverUsed s.intake.rx ≤ receiveCapacity

/-- A nominal scale in its range (R1, R156). -/
def scaleInRange (n : Nat) : Prop := 1024 ≤ n ∧ n ≤ 16383

/-- A segment's counter in its ranges (R1). -/
def counterInRange (k : Counter) : Prop :=
  k.fraction ≤ 4095 ∧ k.debt ≤ 255 ∧ -512 ≤ k.trim ∧ k.trim ≤ 511 ∧ (∀ n ∈ k.nominal, scaleInRange n)

/-- The scales a load buffer holds are in range (R155, R156). -/
def bufferScales : LoadBuffer → Prop
  | .segment m d => (∀ e ∈ m, scaleInRange e.scale) ∧ (∀ e ∈ d, scaleInRange e.scale)
  | .belt b => ∀ e ∈ b, scaleInRange e.scale
  | .media => True
  | .station _ => True

/-- The Travel Counters' ranges, BELT without trim, and the ranges of the scales the counters are set from (R1). -/
def CounterLaw (s : State) : Prop :=
  counterInRange s.counters.main ∧ counterInRange s.counters.duplex ∧ counterInRange s.counters.belt
    ∧ s.counters.belt.trim = 0
    ∧ (∀ g ∈ s.tables.segment, scaleInRange g.main.scale ∧ scaleInRange g.duplex.scale)
    ∧ (∀ b ∈ s.tables.belt, scaleInRange b.scale)
    ∧ (∀ l ∈ s.intake.load, bufferScales l.buffer)

/-- The queued orders and tracking entries that carry a media generation (R165). -/
def boundTo (b : Bank) (s : State) : Nat :=
  (s.orders.filter (fun o => decide (o.gen = b))).length + (s.tracker.table.filter (fun e => decide (e.gen = b))).length

/-- The geometry of the tables in force (R159), and the MEDIA load's hold on the inactive bank (R163). -/
def GeometryLaw (s : State) : Prop :=
  whenDefined s.tables.station stationGeometry = true
    ∧ (∀ v ∈ s.tables.station, whenDefined s.tables.segment (fun g => segmentGeometry g v) = true)
    ∧ whenDefined s.tables.belt beltGeometry = true
    ∧ (∀ v ∈ s.tables.station, whenDefined s.tables.belt (fun b => stationBeltGeometry v b) = true)
    ∧ whenDefined s.tables.belt (fun b => bankGeometry (bankEntries s.tables s.tables.active) b) = true
    ∧ (s.tables.inactive = .retiring →
        whenDefined s.tables.belt (fun b => bankGeometry (bankEntries s.tables (otherBank s.tables.active)) b) = true)
    ∧ ((s.intake.load.map loadTable = some .media) ↔ s.tables.inactive = .loading)

/-- The registry: no set number twice, at most one OPEN set, attempts and counts in range (R27, R32, R41, R44). -/
def RegistryLaw (s : State) : Prop :=
  (s.registry.map (fun e => e.set)).Nodup
    ∧ (s.registry.filter (fun e => decide (e.state = .open))).length ≤ 1
    ∧ ∀ e ∈ s.registry, e.attempt ≤ 255 ∧ 1 ≤ e.ordered ∧ e.ordered ≤ largestSet

/-- The references (R163, R165): each generation's count is the number of queued orders and tracking entries that carry
it, and the inactive bank is RETIRING exactly while its generation has one, so that a FREE or LOADING bank has none. -/
def ReferenceLaw (s : State) : Prop :=
  s.tables.refs0 = boundTo .bank0 s ∧ s.tables.refs1 = boundTo .bank1 s
    ∧ (s.tables.inactive = .retiring ↔ 0 < boundTo (otherBank s.tables.active) s)

/-- The collator's lines, timer and held set against its state, and the run it works for (R121, R122, R127): a running
timer has not reached its timeout, and a set is held only while a run is active. -/
def CollatorLaw (s : State) : Prop :=
  s.collator.push = decide (s.collator.mode = .pushing)
    ∧ s.collator.dump = decide (s.collator.mode = .dumping)
    ∧ s.collator.timer.isSome = decide (s.collator.mode = .pushing ∨ s.collator.mode = .dumping)
    ∧ (∀ t ∈ s.collator.timer, t.elapsed < t.timeout)
    ∧ (s.collator.mode = .empty → s.collator.held = none ∧ s.collator.list = [])
    ∧ (s.collator.mode = .collecting ∨ s.collator.mode = .pushing ∨ s.collator.mode = .dumping →
        s.collator.held.isSome = true ∧ s.path.params.isSome = true)
    ∧ (∀ p ∈ s.path.params, 100 ≤ p.timeout ∧ p.timeout ≤ 5000)

/-- One station's account (R8): with a pending edge the line differs from the level and the edge's direction is the
line's; with none they are equal. -/
def stationInLaw (k : StationState) : Prop :=
  match k.edge with
  | some e => k.line ≠ k.level ∧ e.blocked = k.line
  | none => k.line = k.level

/-- Every station's account, and no pending edge before the station table is defined (R8, R14). -/
def StationLaw (s : State) : Prop :=
  (∀ k ∈ s.stations.toList, stationInLaw k)
    ∧ (s.tables.station = none → ∀ k ∈ s.stations.toList, k.edge = none)

/-- The passage event that a command is the step of (R5). -/
def passageOf : Instr → Option PointEvent
  | .debouncePointReached station => some (.debounce station)
  | .pitchCommitEvent _ => some .pitch
  | .seamWatchPoint => some .seamWatch
  | .feedStart sheet => some (.feedStart sheet)
  | .release => some .release
  | .gateClosePoint => some .gateClose
  | .leadDeadline sheet => some (.leadDeadline sheet)
  | .trailDeadline sheet => some (.trailDeadline sheet)
  | .settlePoint sheet => some (.settle sheet)
  | _ => none

/-- The kind, tag and body of a record command's record (R180). -/
def recordOf : Instr → Option (Byte × Tag × List Byte)
  | .sheet tag body => some (0x01, tag, body)
  | .startRun tag body _ _ => some (0x02, tag, body)
  | .halt tag body => some (0x03, tag, body)
  | .resume tag body _ => some (0x04, tag, body)
  | .endRun tag body => some (0x05, tag, body)
  | .pathCleared tag body _ _ => some (0x06, tag, body)
  | .runReset tag body _ => some (0x07, tag, body)
  | .query tag body => some (0x08, tag, body)
  | .clearConditions tag body => some (0x09, tag, body)
  | .setMask tag body => some (0x0A, tag, body)
  | .lock tag body => some (0x0B, tag, body)
  | .unlock tag rest => some (0x0B, tag, 0x02 :: rest)
  | .lockDown tag rest => some (0x0B, tag, 0x03 :: rest)
  | .setTrim tag body => some (0x0C, tag, body)
  | .loadBegin tag body => some (0x0D, tag, body)
  | .loadEntry tag body => some (0x0E, tag, body)
  | .loadCommit tag body => some (0x0F, tag, body)
  | .loadAbort tag body => some (0x10, tag, body)
  | .unknownKindRecord kind tag body => if 1 ≤ kind.toNat ∧ kind.toNat ≤ 16 then none else some (kind, tag, body)
  | _ => none

/-- A command takes a frame in its turn: it is the frame's record, or BAD_FRAME where the frame's check fails (R179, R180). -/
def takesFrame (c : Instr) (f : Frame) : Prop :=
  match frameFields f with
  | some fields => recordOf c = some fields
  | none => c = .badFrame

/-- The commands by which the frame at the head of a free link's buffer has its turn: one that takes it, or none where there is
no frame (R39, R179; log 6). -/
def headTurn (frames : List Frame) (turn : List Instr) : Prop :=
  match frames with
  | [] => turn = []
  | f :: _ => ∃ c, turn = [c] ∧ takesFrame c f

/-- The part's own next command: none, the retry of a held record, or the turn of the frame at the head of a free link's buffer
(R39, R179; logs 6 and 11). -/
def ownNext (s : State) (own : List Instr) : Prop :=
  own = [] ∨ own = [.heldSheetRetry]
    ∨ (s.intake.held = none ∧ s.intake.rx.frames ≠ [] ∧ headTurn s.intake.rx.frames own)

/-- A placed point whose position has been passed is reached, and the event of every reached point stands before every command
but the part's own next one, other passage events, and sensor and seam line changes (R5, R92). -/
def PointLaw (s : State) : Prop :=
  (∀ q ∈ s.points, passed (segPos s q.segment) q.position = true → q.reached = true)
    ∧ ∃ own due rest, s.pending = own ++ due ++ rest ∧ ownNext s own
      ∧ (∀ c ∈ due, (passageOf c).isSome = true ∨ isLineChange c = true)
      ∧ ∀ q ∈ s.points, q.reached = true → ∃ c ∈ due, passageOf c = some q.event

/-- The link (R38 to R40, R135, R179, R181): while it is held, the held record's frame stands at the head of the receive buffer, a
run is active, no load is open, and the record's checks give holding unless their retry is the next command; while it is not
held, the frame at the buffer's head has its turn as the next command; and a frame is being collected only while the gap since
its last byte is 2 ms or less. -/
def HoldLaw (s : State) : Prop :=
  (∀ r ∈ s.intake.held,
    (∃ body, parseSheet r.tag body = some r ∧ s.intake.rx.frames.head? = some (sheetFrame r.tag body))
      ∧ s.path.runActive = true ∧ s.intake.load = none
      ∧ (judgeSheet r s = .held ∨ s.pending.head? = some .heldSheetRetry))
    ∧ (s.intake.held = none → ∀ f, s.intake.rx.frames.head? = some f → ∃ c, s.pending.head? = some c ∧ takesFrame c f)
    ∧ (s.intake.rx.collecting.isSome = true → s.intake.rx.gap ≤ 2)

/-! ## The words of the statements -/

/-- The link is idle and its buffer empty, so that a record command is taken at once (R179; log 6). -/
def linkIdle (s : State) : Prop := s.intake.held = none ∧ s.intake.rx.frames = [] ∧ s.intake.rx.collecting = none

/-- The report queue has room for n more reports (R172, R173). -/
def reportRoom (n : Nat) (s : State) : Prop := s.report.queue.length + n ≤ reportCapacity

/-- The report queue with reports appended in order, each stamped with the time tag (R172, R175). -/
def withReports (bs : List ReportBody) (u : ReportUnit) : ReportUnit :=
  { u with queue := u.queue ++ bs.map (fun b => ⟨u.timeTag, b⟩) }

/-- The ALERT of a latching: none where the condition is latched already or its mask bit is clear (R167, R169). -/
def alertOf (c : Condition) (u : ReportUnit) : List ReportBody :=
  if hasCondition u.latch c || !hasCondition u.mask c then [] else [.alert c (addCondition u.latch c)]

/-- The report unit after a latching that finds room for its ALERT (R167, R169). -/
def afterLatching (c : Condition) (u : ReportUnit) : ReportUnit :=
  withReports (alertOf c u) { u with latch := addCondition u.latch c }

/-- The state after a refusal that finds room: its REFUSAL, then the latching of REFUSED (R169, R176). -/
def afterRefusal (tag : Option Tag) (kind : Option RecordKind) (code : RefusalCode) (s : State) : State :=
  { s with report := afterLatching .refused (withReports [.refusal tag kind code] s.report) }

/-- A record command is taken at once, and finds no load open. -/
def recordReady (s : State) : Prop := linkIdle s ∧ s.intake.load = none

/-- Of a registry, no FAILED entry but of the set named, so that R26 removes nothing. -/
def noOtherFailed (n : SetNumber) (reg : List SetEntry) : Prop := ∀ e ∈ reg, e.state = .failed → e.set = n

/-- Of a registry, no OPEN entry but of the set named (R27). -/
def noOtherOpen (n : SetNumber) (reg : List SetEntry) : Prop := ∀ e ∈ reg, e.state = .open → e.set = n

/-- The media and length checks let the record through, for run parameters p (R32). -/
def mediaPasses (r : SheetRecord) (p : RunParams) (t : TableStore) : Prop :=
  ∃ m, (bankEntries t t.active)[r.media] = some m ∧ (p.mode = .duplex → m.duplexPermitted = true)
    ∧ (p.mode = .simplex → r.side2 = none) ∧ r.sheet.seq ≤ largestSet

/-- The refusal of the media and length checks, in their order, for run parameters p (R32). -/
def mediaRefusal (r : SheetRecord) (p : RunParams) (t : TableStore) (c : RefusalCode) : Prop :=
  match (bankEntries t t.active)[r.media] with
  | none => c = .unknownMedia
  | some m =>
    if (p.mode = .duplex ∧ m.duplexPermitted = false) ∨ (p.mode = .simplex ∧ r.side2.isSome = true) then
      c = .duplexNotPermitted
    else largestSet < r.sheet.seq ∧ c = .setTooLong

/-- In STRICT, a set that waits for its reprint or is about to keeps a younger printing back (R31). -/
def keptBack (p : RunParams) (olderSets : List SetEntry) : Prop :=
  p.policy = .strict ∧ ∃ e ∈ olderSets, e.state = .spoiled ∨ e.state = .awaitingReprint

/-- The record passes every check up to room as a new set, a reprint start or a continuation (R27 to R32). -/
def passesAs (how : SheetPass) (r : SheetRecord) (p : RunParams) (s : State) : Prop :=
  noOtherOpen r.sheet.set s.registry ∧ mediaPasses r p s.tables ∧
    match how with
    | .newSet => (∀ e ∈ s.registry, e.set ≠ r.sheet.set) ∧ r.sheet.attempt = 0 ∧ r.sheet.seq = 1
        ∧ ¬keptBack p s.registry
    | .reprintStart => ∃ e, findSet r.sheet.set s.registry = some e ∧ e.state = .awaitingReprint
        ∧ r.sheet.attempt = e.attempt ∧ r.sheet.seq = 1 ∧ ¬keptBack p (older r.sheet.set s.registry)
    | .continuation => ∃ e, findSet r.sheet.set s.registry = some e ∧ e.state = .open ∧ r.sheet.attempt = e.attempt
        ∧ r.sheet.seq = e.ordered + 1

/-- Registry room is lacking: a new set finds 16 entries (R38). -/
def lacksEntry (how : SheetPass) (s : State) : Prop := how = .newSet ∧ registryCapacity ≤ s.registry.length

/-- Room is lacking, in the order queue or in the registry (R38). -/
def lacksRoom (how : SheetPass) (s : State) : Prop := orderCapacity ≤ s.orders.length ∨ lacksEntry how s

/-- The path is RUNNING or HALTING (R40, R62, R85). -/
def moving (s : State) : Prop := s.path.state = .running ∨ s.path.state = .halting

/-- A hold for want of room can end by itself: the path moves, and where registry room is lacking an entry is SEALED or
DELIVERING (R40). -/
def holdEnds (how : SheetPass) (s : State) : Prop :=
  moving s ∧ (lacksEntry how s → ∃ e ∈ s.registry, e.state = .sealed ∨ e.state = .delivering)

/-- The state after a SHEET record has been accepted: its order at the queue's tail with a reference to the bank in force, and
the registry's effect of a new set, a reprint start or a continuation; LAST seals the set (R34, R54, R165). -/
def afterAccepted (how : SheetPass) (r : SheetRecord) (s : State) : State :=
  let state : SetState := if r.last then .sealed else .open
  let ofSet (f : SetEntry → SetEntry) : List SetEntry := s.registry.map (fun x => if x.set = r.sheet.set then f x else x)
  { s with
    orders := s.orders ++ [⟨r.tag, r.sheet, r.last, r.media, s.tables.active, r.side1, r.side2⟩]
    tables := setRefs s.tables.active (refsOf s.tables s.tables.active + 1) s.tables
    registry := match how with
      | .newSet => s.registry ++ [{
          set := r.sheet.set, attempt := 0, ownFailures := 0, state := state, ordered := 1, committed := 0, collected := 0
          reason := none, drained := false, failing := false }]
      | .reprintStart => ofSet (fun x => { x with
          state := state, ordered := 1, committed := 0, collected := 0, drained := false, reason := none })
      | .continuation => ofSet (fun x => { x with
          ordered := x.ordered + 1, state := if r.last then .sealed else x.state }) }

/-- The stations as a resample leaves them: level equal to line, no pending edge (R15). -/
def resampled (before after : Vector StationState 14) : Prop :=
  ∀ i : Fin 14, after[i] = { line := before[i].line, level := before[i].line, edge := none }

/-- Every sensor line reads CLEAR (R138, R149). -/
def linesClear (s : State) : Prop := ∀ i : Fin 14, s.stations[i].line = false

/-- The halt test's conditions (R141, R43). -/
def haltable (s : State) : Prop :=
  (∀ e ∈ s.registry, ¬(0 < e.committed ∧ (e.state = .open ∨ (e.state = .sealed ∧ e.committed < e.ordered))))
    ∧ s.tracker.table = [] ∧ s.sched.ring = [] ∧ s.collator.mode = .empty

/-- The points but those of events that satisfy a test. -/
def pointsBut (test : PointEvent → Bool) (ps : List Point) : List Point := ps.filter (fun q => !test q.event)

/-- An event's point is placed and reached: the event can be delivered (R5). -/
def pointReached (e : PointEvent) (s : State) : Prop := ∃ q ∈ s.points, q.event = e ∧ q.reached = true

/-- The events of t's reached points that are not among the points given (R5). -/
def eventsDue (before : List Point) (t : State) : List Instr :=
  (t.points.filter (fun q => q.reached && !decide (q ∈ before))).map (fun q => passageCommand t.inputs.drawers q.event)

/-- The state t that a step from s has brought about, with the retry of a held record first in its queue where, while the link is
held, an order has left the queue, a registry entry has been removed or has changed its state, or the path state or run-active
flag has changed (R39, R135; that the retry is the part's next step is log 11). -/
def retried (s t : State) : State :=
  { t with
    pending :=
      (if t.intake.held.isSome = true
          ∧ (t.path.state ≠ s.path.state ∨ t.path.runActive ≠ s.path.runActive
            ∨ (s.intake.held.isSome = true ∧ (t.orders ≠ s.orders
              ∨ t.registry.map (fun e => (e.set, e.state)) ≠ s.registry.map (fun e => (e.set, e.state)))))
        then [.heldSheetRetry] else []) ++ t.pending }

/-- State t's queue is s's with, before it, the events of t's reached points that are not among the points given, each once, in
some order, and before these the retry of a held record where one is due (R5, R39; that a delivered event goes to the queue's
front is log 3, the retry's place log 11, that the events' order is free log 33). -/
def eventsQueued (before : List Point) (s t : State) : Prop :=
  ∃ due, due.Perm (eventsDue before t) ∧ t.pending = (retried s { t with pending := due ++ s.pending }).pending

/-- The same, the events standing in some order among the line changes at the front of s's queue, up to n, which keep theirs
(R5, R92; logs 3 and 33). -/
def eventsQueuedAmong (n : Nat) (before : List Point) (s t : State) : Prop :=
  ∃ lines rest first, s.pending = lines ++ rest ∧ lines = (s.pending.take n).takeWhile isLineChange
    ∧ first.Perm (eventsDue before t ++ lines) ∧ lines.Sublist first ∧ t.pending = first ++ rest

/-- A command leaves t, and the events of t's reached points that are not among the points given are delivered (R5). -/
def runsDelivering (c : Instr) (s : State) (before : List Point) (t : State) : Prop :=
  ∃ queue, eventsQueued before s { t with pending := queue } ∧ exec c s = .next { t with pending := queue }

/-- The path as a stop leaves it (R137, R146). -/
def stoppedPath (r : StopRecord) (fault : Bool) (p : PathControl) : PathControl :=
  { p with state := .stopped, drives := false, stopRecord := some r, faultStop := p.faultStop || fault }

/-- The state after a condition has latched and the path has entered STOPPED with stop record r, with room for the
ALERT, the JAM and the PATH report; fault says whether the fault stop was raised (R137, R145, R146, R169). -/
def afterStop (c : Condition) (r : StopRecord) (fault : Bool) (s : State) : State :=
  { s with
    path := stoppedPath r fault s.path
    tracker := { s.tracker with table := s.tracker.table.map (fun e => { e with state := .stranded }) }
    sched := { s.sched with seam := none, nextPitch := 0, clutches := Clutches.released }
    points := pointsBut isBeltPoint s.points
    report := withReports
      [.jam r.cause r.station (r.named.map (fun n => n.tag)) r.deviation
        (s.tracker.table.map (fun e =>
          { tag := e.tag, set := e.sheet.set, seq := e.sheet.seq, lastPassed := e.lastPassed })),
       .path .stopped s.path.runActive]
      (afterLatching c s.report) }

/-- A halt has completed: HALTED, drives stopped, HALTED latched, PATH report (R137, R141, R169). -/
def afterHalt (s : State) : State :=
  { s with
    path := { s.path with state := .halted, drives := false }
    sched := { s.sched with seam := none, nextPitch := 0, clutches := Clutches.released }
    points := pointsBut isBeltPoint s.points
    report := withReports [.path .halted s.path.runActive] (afterLatching .halted s.report) }

/-- The receive buffer d ms on: the gap since the last byte of a frame counts them, up to 3 ms, and a frame being collected
ends, broken, once the gap is more than 2 ms (R179). -/
def gapAfter (d : Nat) (rx : Receiver) : Receiver :=
  if 2 < rx.gap then rx
  else if rx.gap + d ≤ 2 then { rx with gap := rx.gap + d }
  else match rx.collecting with
    | none => { rx with gap := 3 }
    | some c =>
      { frames := rx.frames ++ [{ bytes := c.bytes, broken := true, headless := c.headless }], collecting := none, gap := 3 }

/-- A command that calls for the halt test leaves t, or, where the path is HALTING and t meets the test's conditions, t halted:
the test is made once, on the step's whole outcome, its ALERT and PATH report behind the step's own (R141; log 12, DEDUCED). -/
def runsTo (c : Instr) (s t : State) : Prop :=
  (s.path.state ≠ .halting ∨ ¬haltable t → exec c s = .next (retried s t))
    ∧ (s.path.state = .halting → haltable t → exec c s = .next (retried s (afterHalt t)))

/-- The clocks d ms on: the time tag, the silence measure, a running collator timer and the gap on the order link (R127, R148,
R175, R179; log 1). A frame that so ends, broken, at the head of a free link's buffer has its turn as BAD_FRAME (log 6). -/
def clocksAfter (d : Nat) (s : State) : State :=
  { s with
    pending := (if s.intake.held = none ∧ s.intake.rx.frames = [] ∧ (gapAfter d s.intake.rx).frames ≠ []
      then [.badFrame] else []) ++ s.pending
    intake := { s.intake with rx := gapAfter d s.intake.rx }
    report := { s.report with timeTag := s.report.timeTag + BitVec.ofNat 16 d }
    path := { s.path with silence := s.path.silence + d }
    collator := { s.collator with timer := s.collator.timer.map (fun t => { t with elapsed := t.elapsed + d }) } }

/-- No collator timer that runs in PUSHING or DUMPING reaches its timeout within d ms (R127). -/
def timerOutlasts (d : Nat) (s : State) : Prop :=
  s.collator.mode = .pushing ∨ s.collator.mode = .dumping → ∀ t ∈ s.collator.timer, t.elapsed + d < t.timeout

/-- The state after the collator has faulted at a moment it was not FAULTED (R130, R145). -/
def afterCollatorFault (s : State) : State :=
  let s' := { s with collator := { s.collator with mode := .faulted, timer := none, push := false, dump := false } }
  if s.path.state = .stopped then
    { s' with path := { s.path with faultStop := true }, report := afterLatching .collatorFault s.report }
  else
    afterStop .collatorFault { cause := .collatorFault, station := some .out, named := none, deviation := none } true s'

/-! ### Sets (R44 to R52) -/

/-- A set that a spoil can withdraw is OPEN, SEALED or DELIVERING (R44). -/
abbrev canSpoil (e : SetEntry) : Prop := e.state = .open ∨ e.state = .sealed ∨ e.state = .delivering

/-- An entry as a spoil leaves it, its attempt below 255: own says whether the spoil counts as its own failure (R44, R45). -/
def spoiledEntry (reason : SpoilReason) (own : Bool) (e : SetEntry) : SetEntry :=
  let n := e.ownFailures + (if own then 1 else 0)
  { e with state := .spoiled, reason := some reason, attempt := e.attempt + 1, ownFailures := n, drained := false
           failing := e.failing || (own && decide (3 ≤ n)) }

/-- An entry as its resolution leaves it: FAILED where it is failing, else AWAITING_REPRINT (R50, R52). -/
def resolvedEntry (e : SetEntry) : SetEntry :=
  { e with state := if e.failing then .failed else .awaitingReprint, drained := true }

/-- The report unit after an entry's resolution that finds room: SET DONE FAILED with SET_FAILED, or REPRINT with
REPRINT_PENDING (R50, R52, R59, R60). -/
def afterResolution (e : SetEntry) (u : ReportUnit) : ReportUnit :=
  if e.failing then afterLatching .setFailed (withReports [.setDone e.set e.attempt .failed 0] u)
  else afterLatching .reprintPending (withReports [.reprint e.set e.attempt e.reason e.ownFailures] u)

/-- No sheet of a set is in the path, on the shelf or in the collator (R49). -/
abbrev absent (n : SetNumber) (s : State) : Prop :=
  (∀ x ∈ s.tracker.table, x.sheet.set ≠ n) ∧ (∀ x ∈ s.shelf, x.sheet.set ≠ n)
    ∧ (s.collator.mode = .empty ∨ s.collator.held.map (fun h => h.set) ≠ some n)

/-- The entries that a spoil of e withdraws, in registry order: e, and in STRICT the younger ones that can be spoiled (R44,
R47). -/
def hitSets (p : RunParams) (e : SetEntry) (young : List SetEntry) : List SetEntry :=
  e :: (if p.policy = .strict then young.filter (fun y => decide (canSpoil y)) else [])

/-- The orders of some sets removed, and their references released (R37, R165). -/
def withoutOrders (ns : List SetNumber) (s : State) : State :=
  { s with
    orders := s.orders.filter (fun o => decide (o.sheet.set ∉ ns))
    tables := ((ns.flatMap (fun n => s.orders.filter (fun o => decide (o.sheet.set = n)))).map (fun o => o.gen)).foldl
      (fun t b => releaseRef b t) s.tables }

/-- A spoil of entry e, its registry old ++ e :: young, after which e has not drained: a sheet of it is in the path, on the
shelf or in the collator (R44, R49). -/
def spoilStands (p : RunParams) (old : List SetEntry) (e : SetEntry) (young : List SetEntry) (s : State) : Prop :=
  s.path.params = some p ∧ s.registry = old ++ e :: young ∧ (s.registry.map (fun y => y.set)).Nodup ∧ canSpoil e
    ∧ ¬absent e.set s ∧ ∀ y ∈ hitSets p e young, y.attempt < 255 ∧ y.failing = false

/-- The state such a spoil leaves, its reason one that counts an own failure, with room for SPOIL's ALERT. The sets hit lose
their orders, their sheets are flagged, and a COLLECTING collator that holds one of them dumps it, unless a sheet of it is
still bound for OUT. A younger set hit drains where it has no sheet in the machine, and is held behind e (R44 to R47, R49,
R50, R97, R128). -/
def afterSpoil (reason : SpoilReason) (p : RunParams) (old : List SetEntry) (e : SetEntry) (young : List SetEntry)
    (s : State) : State :=
  let hit := (hitSets p e young).map (fun y => y.set)
  let reasonOf (n : SetNumber) : SpoilReason := if n = e.set then reason else .cascade
  let bound (h : HeldSet) : Bool := s.tracker.table.any (fun o =>
    decide (o.sheet.set = h.set ∧ o.sheet.attempt = h.attempt ∧ o.dest = .out))
  let dumps : Bool := decide (s.collator.mode = .collecting)
    && s.collator.held.any (fun h => decide (h.set ∈ hit) && !bound h)
  { withoutOrders hit s with
    registry := old ++ spoiledEntry reason true e :: (if p.policy = .strict then
      young.map (fun y => if canSpoil y then { spoiledEntry .cascade false y with drained := decide (absent y.set s) } else y)
      else young)
    tracker := { s.tracker with table := s.tracker.table.map (fun o =>
      if o.sheet.set ∈ hit then { o with spoiled := some (o.spoiled.getD (reasonOf o.sheet.set)) } else o) }
    collator := if dumps then
        { s.collator with mode := .dumping, dump := true, timer := some { elapsed := 0, timeout := p.timeout } }
      else s.collator
    report := afterLatching .spoil s.report }

/-- The refusals of a record of the OPEN set of entry e that spoil it: BAD_SEQUENCE, of the set's attempt or of an older one,
and those of the media and length checks (R28, R29, R32, R33). -/
def openRefusal (r : SheetRecord) (e : SetEntry) (p : RunParams) (t : TableStore) (c : RefusalCode) : Prop :=
  (c = .badSequence ∧ (r.sheet.attempt < e.attempt ∨ (r.sheet.attempt = e.attempt ∧ r.sheet.seq ≠ e.ordered + 1)))
    ∨ (r.sheet.attempt = e.attempt ∧ r.sheet.seq = e.ordered + 1 ∧ mediaRefusal r p t c)

/-- The entries that the walk of R51 resolves: the held ones up to the first SPOILED entry that has not drained. -/
def walkedSets : List SetEntry → List SetEntry
  | [] => []
  | e :: es =>
    if e.state = .spoiled then (if e.drained then e :: walkedSets es else []) else walkedSets es

/-- The entries after the walk of R51. -/
def afterWalk (es : List SetEntry) : List SetEntry :=
  es.map (fun e => if e ∈ walkedSets es then resolvedEntry e else e)

/-! ### Edges (R11, R85 to R102) -/

/-- A pending edge whose debounce point has been reached, opposite to the level: to BLOCKED a lead, to CLEAR a trail (R11,
R12). -/
def edgeReady (st : Station) (blocked : Bool) (raw : Pos) (s : State) : Prop :=
  pointReached (.debounce st) s ∧ s.stations[stationId st].edge = some { blocked := blocked, raw := raw }
    ∧ s.stations[stationId st].level = !blocked

/-- The state after the edge has been confirmed and before it is judged (R11). -/
def edgeTaken (st : Station) (blocked : Bool) (s : State) : State :=
  { s with
    stations := s.stations.set (stationId st) { s.stations[stationId st] with level := blocked, edge := none }
    points := pointsBut (fun q => decide (q = .debounce st)) s.points }

/-- A confirmed position: the raw position plus the station's latency correction (R10, R11). -/
def confirmedAt (v : Vector StationEntry 14) (st : Station) (raw : Pos) : Pos := raw + BitVec.ofInt 20 v[stationId st].latency

/-- A lead is confirmed at st, on time for entry y, which expects it at x; before and after are the other entries, and of
those that expect st none expects it earlier, nor one before y at the same position (R89, R90). -/
def leadOnTime (st : Station) (raw x : Pos) (y : Track) (before after : List Track) (v : Vector StationEntry 14)
    (s : State) : Prop :=
  moving s ∧ s.tables.station = some v ∧ edgeReady st true raw s ∧ s.tracker.table = before ++ y :: after
    ∧ (∀ z ∈ before ++ after, z.sheet ≠ y.sheet)
    ∧ (∀ z ∈ before, z.next = some st → ∀ x' ∈ z.expected, 0 < travelDiff x' x)
    ∧ (∀ z ∈ after, z.next = some st → ∀ x' ∈ z.expected, 0 ≤ travelDiff x' x)
    ∧ y.next = some st ∧ y.expected = some x
    ∧ (travelDiff (confirmedAt v st raw) x).natAbs ≤ v[stationId st].window

/-- A trail is confirmed at st for entry y, whose trail w is pending there; before and after are the other entries, none
of which has a trail pending at st (R94). -/
def trailMatched (st : Station) (raw : Pos) (y : Track) (w : TrailPending) (before after : List Track)
    (v : Vector StationEntry 14) (s : State) : Prop :=
  s.tables.station = some v ∧ edgeReady st false raw s ∧ s.tracker.table = before ++ y :: after
    ∧ (∀ z ∈ before ++ after, z.sheet ≠ y.sheet ∧ ∀ w' ∈ z.trail, w'.station ≠ st)
    ∧ y.trail = some w ∧ w.station = st

/-- The segment entry a station's trim pair is read from (R16, R18). -/
def pairEntry (st : Station) (g : SegmentTable) : SegmentEntry := if stationSegment st = .duplex then g.duplex else g.main

/-- The trim start that an on-time lead at q leaves its entry: q at the pair's first station, none at its second (R18). -/
def trimStartAfter (st : Station) (q : Pos) (g : SegmentTable) (y : Track) : Option Pos :=
  if st = (pairEntry st g).trimA then some q else if st = (pairEntry st g).trimB then none else y.trimStart

/-- The error of the trim sample that an on-time lead at q gives and that is acted on: at the pair's second station, for an
unspoiled sheet with a trim start, with automatic trim enabled, and outside the deadband (R18, R19). -/
def trimError (v : Vector StationEntry 14) (st : Station) (q : Pos) (g : SegmentTable) (y : Track) : Option Int :=
  let pair := pairEntry st g
  if st ≠ pair.trimA ∧ st = pair.trimB ∧ y.spoiled = none ∧ pair.autoTrim = true then
    (y.trimStart.map (fun start =>
        travelDiff q start - ((v[stationId pair.trimB].position : Int) - (v[stationId pair.trimA].position : Int)))).filter
      (fun e => decide (pair.deadband < e.natAbs))
  else none

/-- The state after an automatic trim for an error e, or none, with room for an ALERT: the step is |e| / 4 + 1, at most 16,
against the error's sign; past −512 or +511 the trim stands at the limit and TRIM_LIMIT latches (R19). -/
def afterTrim (st : Station) (error : Option Int) (s : State) : State :=
  match error with
  | none => s
  | some e =>
    let k := counterOf s.counters (stationSegment st)
    let step : Int := min 16 ((e.natAbs : Int) / 4 + 1)
    let moved : Int := if 0 < e then k.trim - step else k.trim + step
    let trim : Int := if moved < -512 then -512 else if 511 < moved then 511 else moved
    { s with
      counters := setCounter (stationSegment st) { k with trim := trim } s.counters
      report := if moved < -512 ∨ 511 < moved then afterLatching .trimLimit s.report else s.report }

/-- The expected position at the next station of a lead at q (R86). -/
def onward (v : Vector StationEntry 14) (st next : Station) (q : Pos) : Pos :=
  q + BitVec.ofInt 20 ((v[stationId next].position : Int) - (v[stationId st].position : Int))

/-- The lead deadline X + w + H (R87). -/
def deadlineOf (v : Vector StationEntry 14) (st : Station) (x : Pos) : Pos :=
  x + BitVec.ofNat 20 (v[stationId st].window + v[stationId st].debounce)

/-- An entry that expects its lead at a station and position (R86, R87). -/
def expecting (v : Vector StationEntry 14) (st : Station) (x : Pos) (y : Track) : Track :=
  { y with next := some st, expected := some x, leadDeadline := some (deadlineOf v st x) }

/-- An entry that expects no lead. -/
def expectingNone (y : Track) : Track := { y with next := none, expected := none, leadDeadline := none }

/-- The trail deadline: Q + length + tolerance + w + H, the length the measured one where there is one (R93). -/
def trailDeadlineOf (v : Vector StationEntry 14) (m : MediaEntry) (st : Station) (q : Pos) (y : Track) : Pos :=
  q + BitVec.ofInt 20 (y.measured.getD m.length + m.tolerance + v[stationId st].window + v[stationId st].debounce)

/-- An entry with its trail pending at a lead-and-trail station since its lead at q (R93). -/
def trailing (v : Vector StationEntry 14) (m : MediaEntry) (st : Station) (q : Pos) (y : Track) : Track :=
  { y with
    trail := some { station := st, deadline := trailDeadlineOf v m st q y, lead := q } }

/-- A passage point as it is placed (R5). -/
def pointAt (s : State) (g : Segment) (x : Pos) (e : PointEvent) : Point := ⟨g, x, e, passed (segPos s g) x⟩

/-- The tracking table replaced. -/
def withTable (table : List Track) (s : State) : State := { s with tracker := { s.tracker with table := table } }

/-- The destination a decision gives (R100). -/
def decided (p : RunParams) (y : Track) : Destination :=
  if y.spoiled.isSome then .prg else if p.mode = .duplex ∧ y.pass = .first then .dxe else .out

/-- The diverter line's position for a destination (R99, R100). -/
def linePosition : Destination → DiverterLine
  | .out => .out | .dxe => .dxe | .prg => .prg | .undecided => .prg

/-- The reservation count after a decision: a pass-1 sheet of a DUPLEX run decided PRG gives its own back (R113). -/
def reservedAfter (p : RunParams) (y : Track) (n : Nat) : Nat :=
  if p.mode = .duplex ∧ y.pass = .first ∧ y.spoiled.isSome = true then n - 1 else n

/-! ### Pitches (R68, R69) -/

/-- The shelf refeed's conditions but the report queue's (R68). -/
def refeedable (p : RunParams) (s : State) : Prop :=
  p.mode = .duplex ∧ s.sched.gap2 = 0
    ∧ ∃ h hs, s.shelf = h :: hs ∧ h.settled = true ∧ ∃ e ∈ s.tracker.table, e.sheet = h.sheet

/-- The new feed's conditions but its drawer's and the report queue's: in HALTING the order's set has a committed sheet (R43,
R69). -/
def feedable (p : RunParams) (o : Order) (s : State) : Prop :=
  s.tracker.table.length < trackCapacity ∧ (if p.mode = .simplex then s.sched.gap1 = 0 else s.sched.reservation < 5)
    ∧ (s.path.state = .running ∨ (s.path.state = .halting ∧ ∃ e, findSet o.sheet.set s.registry = some e
        ∧ (e.state = .open ∨ e.state = .sealed) ∧ 0 < e.committed))

/-- The command is a record of the order link. -/
def isRecord : Instr → Bool
  | .sheet .. | .startRun .. | .halt .. | .resume .. | .endRun .. | .pathCleared .. | .runReset .. | .query ..
  | .clearConditions .. | .setMask .. | .lock .. | .unlock .. | .lockDown .. | .setTrim .. | .loadBegin ..
  | .loadEntry .. | .loadCommit .. | .loadAbort .. | .unknownKindRecord .. => true
  | .powerOnReset .. | .heldSheetRetry | .badFrame | .interByteGap | .reportTransmit .. | .imageFault ..
  | .imagerFrameDiscard .. | .forwardCount .. | .reverseCount .. | .phaseError .. | .sensorChange ..
  | .debouncePointReached .. | .seamMark .. | .seamWatchPoint | .pitchCommitEvent .. | .feedStart .. | .release
  | .gateClosePoint | .leadDeadline .. | .trailDeadline .. | .settlePoint .. | .stopLineAsserted ..
  | .stopLineReleased .. | .collatorDone | .collatorFaultLine | .collatorTimerExpiry | .atRest | .orderLinkByte .. => false

/-- The tag of a record command. -/
def recordTag : Instr → Option Tag
  | .sheet tag _ | .startRun tag _ _ _ | .halt tag _ | .resume tag _ _ | .endRun tag _ | .pathCleared tag _ _ _
  | .runReset tag _ _ | .query tag _ | .clearConditions tag _ | .setMask tag _ | .lock tag _ | .unlock tag _
  | .lockDown tag _ | .setTrim tag _ | .loadBegin tag _ | .loadEntry tag _ | .loadCommit tag _ | .loadAbort tag _
  | .unknownKindRecord _ tag _ => some tag
  | _ => none

/-- A record interrupts a load with so many entries remaining: every kind but LOAD ENTRY while entries remain, LOAD COMMIT
while none does, LOAD ABORT, and RUN RESET, which abandons the load by its own rule; a body where the kind has none
makes it a refused record, which interrupts (R157, R180). -/
def interrupts (remaining : Nat) : Instr → Prop
  | .loadEntry .. => remaining = 0
  | .loadCommit _ body => body ≠ [] ∨ 0 < remaining
  | .loadAbort _ body => body ≠ []
  | .runReset _ body _ => body ≠ []
  | .unknownKindRecord kind _ _ => kind.toNat = 0 ∨ 16 < kind.toNat
  | c => isRecord c = true

/-- The state after an open load has been abandoned by an interrupting record, with room for its reports (R157; log 21). -/
def afterInterruption (tag : Tag) (l : Load) (s : State) : State :=
  { s with
    intake := { s.intake with load := none }
    tables := if l.buffer = .media then { s.tables with inactive := .free } else s.tables
    report := withReports [.table (loadTable l) (.discarded .sequence) tag] (afterLatching .loadSequence s.report) }

/-- The command is power-on reset. -/
def isPowerOn : Instr → Bool
  | .powerOnReset _ => true
  | _ => false

/-- The command is a RUN RESET record. -/
def isRunReset : Instr → Bool
  | .runReset .. => true
  | _ => false

end Sys2Proof.Machine
end

