-- ==== Sys2Proof/Certificates/Slice0/Obligations.lean ====
section
/-! DEFINITION. The statements for the provers. A docstring says which rules of the spec a statement formalises; a
statement that rests on a choice of the model names its log entry. -/

open Sys2Proof Sys2Proof.Machine

/-! ## The step -/

/-- A step runs the command at the front of the queue on the state with the queue's rest. -/
def Obligations.StepRunsFrontCommand : Prop :=
  ∀ (c : Instr) (s : State), step { s with pending := c :: s.pending } = exec c s

/-- A step on an empty queue is one millisecond, and AT_REST brings the silence measure to 200 ms, a collator timer not
reaching its timeout meanwhile; the clocks that count are the time tag, the silence measure, a collator timer and the gap on
the order link, which ends a frame where it is longer than 2 ms (R127, R148, R175, R179): the model's choice of where time
passes (logs 1 and 2). -/
def Obligations.MillisecondsPassOnlyInTheClocks : Prop :=
  (∀ s : State, s.pending = [] → timerOutlasts 1 s → step s = .next (clocksAfter 1 s))
    ∧ (∀ s : State, s.path.silence ≤ 200 → timerOutlasts (200 - s.path.silence) s →
        exec .atRest s = .next (clocksAfter (200 - s.path.silence) s)
          ∧ (clocksAfter (200 - s.path.silence) s).path.silence = 200)
    ∧ ∀ s : State, 200 ≤ s.path.silence → timerOutlasts 0 s → exec .atRest s = .next s

/-- Every command leaves the waiting commands as they stand; a forward count, a sensor change, a seam mark and a passage event
put the passage events they bring about before them, a forward count among the line changes next in the queue that it says fall
in its travel, and no other command adds any (R5; logs 3 and 33). Before all these stands the part's own next command, if any:
the retry of a held record, exactly where an order has left the queue, a registry entry has been removed or has changed its
state, or the path state or run-active flag has changed (R39, R135; log 11), or, the link not held, the turn of the frame at the
buffer's head (R39, R179; log 6). -/
def Obligations.CommandsKeepTheQueue : Prop :=
  ∀ (c : Instr) (s t : State), exec c s = .next t → ∃ own due lines first rest, s.pending = lines ++ rest
    ∧ t.pending = own ++ first ++ rest ∧ first.Perm (due ++ lines) ∧ lines.Sublist first
    ∧ ownNext t own
    ∧ (t.intake.held.isSome = true → own = (retried s { t with pending := [] }).pending)
    ∧ (∀ d ∈ due, (passageOf d).isSome = true)
    ∧ (lines ≠ [] → ∃ n, c = .forwardCount n ∧ lines.length ≤ n.lines ∧ ∀ d ∈ lines, isLineChange d = true)
    ∧ (due ≠ [] → (∃ n, c = .forwardCount n) ∨ (∃ st, c = .sensorChange st) ∨ (∃ l, c = .seamMark l)
        ∨ (passageOf c).isSome = true)

/-! ## The laws of the whole part -/

/-- Reset meets every law of Safety.lean. -/
def Obligations.ResetMeetsEveryLaw : Prop :=
  PathLaw State.reset ∧ CapacityLaw State.reset ∧ CounterLaw State.reset ∧ GeometryLaw State.reset
    ∧ ReferenceLaw State.reset ∧ RegistryLaw State.reset ∧ CollatorLaw State.reset ∧ StationLaw State.reset ∧ PointLaw State.reset
    ∧ HoldLaw State.reset

/-- Every step keeps PathLaw (R62, R76, R135 to R137, R144 to R146). -/
def Obligations.StepKeepsPathLaw : Prop := ∀ s t : State, PathLaw s → step s = .next t → PathLaw t

/-- Every step keeps the capacities, and the Travel Counters' ranges (R1, R3, R4, R35, R41, R83, R112, R172, R179). -/
def Obligations.StepKeepsCapacitiesAndRanges : Prop :=
  (∀ s t : State, CapacityLaw s → step s = .next t → CapacityLaw t)
    ∧ ∀ s t : State, CounterLaw s → step s = .next t → CounterLaw t

/-- Every step keeps the geometry of the tables in force (R159, R163), and the reference counts of the media generations:
each is the number of orders and tracking entries of its generation, and a FREE bank has none (R163, R165). -/
def Obligations.StepKeepsTableGeometry : Prop :=
  (∀ s t : State, GeometryLaw s → step s = .next t → GeometryLaw t)
    ∧ ∀ s t : State, GeometryLaw s → ReferenceLaw s → step s = .next t → ReferenceLaw t

/-- Every step keeps the registry's law: distinct set numbers, at most one OPEN set (R27, R32, R41, R44). -/
def Obligations.StepKeepsRegistryLaw : Prop := ∀ s t : State, RegistryLaw s → step s = .next t → RegistryLaw t

/-- Every step keeps the collator's law, from states of PathLaw: lines, timer and held set go with its state, no expired
timer stands, and a set is held only in a run (R121, R122, R127). -/
def Obligations.StepKeepsCollatorLaw : Prop :=
  ∀ s t : State, PathLaw s → CollatorLaw s → step s = .next t → CollatorLaw t

/-- Every step keeps the stations' law (line and level differ exactly while an edge is pending), keeps every passage
point that has been passed reached and the events of the reached points before every waiting command but the part's own next one
and sensor and seam line changes (R5, R92), and keeps the link's law, held, free or collecting a frame: a held record whose checks
no longer give holding has its retry next, and the frame at a free link's head its turn (R8, R14, R38 to R40, R135, R179, R181).
That a delivered event, a retry and a frame's turn are the next command of the queue is logs 3, 11 and 6, that line changes of an
event's travel may go before it log 33. -/
def Obligations.StepKeepsStationPointAndHoldLaws : Prop :=
  (∀ s t : State, StationLaw s → step s = .next t → StationLaw t)
    ∧ (∀ s t : State, PointLaw s → step s = .next t → PointLaw t)
    ∧ ∀ s t : State, HoldLaw s → step s = .next t → HoldLaw t

/-! ## Rules over all commands -/

/-- R166, R167, R168: under every command but power-on reset the lock states change only by LOCK, UNLOCK and LOCK DOWN,
and a LOCKED_DOWN index stays LOCKED_DOWN; a latched condition is cleared by CLEAR CONDITIONS and RUN RESET alone, and the
mask is changed by SET MASK alone. -/
def Obligations.LocksLatchAndMaskChangeOnlyByTheirRecords : Prop :=
  ∀ (c : Instr) (s t : State), isPowerOn c = false → exec c s = .next t →
    ((∀ tag body, c ≠ .lock tag body) → (∀ tag rest, c ≠ .unlock tag rest) → (∀ tag rest, c ≠ .lockDown tag rest) →
        t.tables.mediaLocks = s.tables.mediaLocks ∧ t.tables.stationLocks = s.tables.stationLocks)
      ∧ (∀ i : Fin 16, s.tables.mediaLocks[i] = .lockedDown → t.tables.mediaLocks[i] = .lockedDown)
      ∧ (∀ i : Fin 14, s.tables.stationLocks[i] = .lockedDown → t.tables.stationLocks[i] = .lockedDown)
      ∧ ((∀ tag body, c ≠ .clearConditions tag body) → isRunReset c = false →
          ∀ k : Condition, hasCondition s.report.latch k = true → hasCondition t.report.latch k = true)
      ∧ ((∀ tag body, c ≠ .setMask tag body) → t.report.mask = s.report.mask)

/-- R172, R175, R178: reports leave the queue only by their transmission, RUN RESET and power-on reset; every other command
leaves the queue as it stands and adds at its tail, stamped with the time tag. Those of a collator timer that expires
while AT_REST lets the clocks run are stamped at the expiry (log 2). -/
def Obligations.ReportsJoinTheTail : Prop :=
  ∀ (c : Instr) (s t : State), isPowerOn c = false → isRunReset c = false → (∀ b, c ≠ .reportTransmit b) →
    exec c s = .next t → ∃ new, t.report.queue = s.report.queue ++ new
      ∧ ∀ r ∈ new, r.timeTag = t.report.timeTag
          ∨ (c = .atRest ∧ ∃ d ≤ 200, r.timeTag = s.report.timeTag + BitVec.ofNat 16 d)

/-- R147, R149, R151: STOPPED is left by PATH CLEARED and RUN RESET (and power-on reset) alone. -/
def Obligations.StoppedIsLeftOnlyByItsRecords : Prop :=
  ∀ (c : Instr) (s t : State), isPowerOn c = false → isRunReset c = false →
    (∀ tag body e r, c ≠ .pathCleared tag body e r) → exec c s = .next t →
    s.path.state = .stopped → t.path.state = .stopped

/-! ## Power-on reset -/

/-- R6, R15, R37, R58, R82, R110, R120, R134, R152, R153, R163, R166, R168, R171, R175, R178: power-on reset, no
collator fault standing asserted; and with one, the FAULTED collator and the STOPPED path (R130, R183). The input lines
are read by R183's senses, and the output lines stand at their levels. -/
def Obligations.PowerOnResetInitialises : Prop :=
  ∀ (lines : PowerOnLines) (s : State),
    ∃ t, exec (.powerOnReset lines) s = .next t ∧ t.pending = s.pending
      ∧ t.inputs = { drawers := lines.drawers, shelfEmpty := lines.shelfEmpty, collatorReady := lines.collatorReady
                     controllerReady := lines.controllerReady }
      ∧ t.intake.rx.frames = [] ∧ t.intake.rx.collecting = none ∧ t.intake.held = none ∧ t.intake.load = none
      ∧ t.orders = [] ∧ t.registry = [] ∧ t.points = [] ∧ t.shelf = []
      ∧ t.tables = { bank0 := Vector.replicate 16 none, bank1 := Vector.replicate 16 none, active := .bank0
                     inactive := .free, refs0 := 0, refs1 := 0, station := none, segment := none, belt := none
                     mediaLocks := Vector.replicate 16 .unlocked, stationLocks := Vector.replicate 14 .unlocked }
      ∧ (∀ g, ∃ k, k = counterOf t.counters g ∧ k.position = 0 ∧ k.fraction = 0 ∧ k.debt = 0 ∧ k.nominal = none
          ∧ k.trim = 0)
      ∧ (∀ st : Station, let blocked := asserted (.sensor st) lines.sensors[stationId st]
          t.stations[stationId st] = { line := blocked, level := blocked, edge := none })
      ∧ t.tracker = { table := [], diverter := .free, line := .prg }
      ∧ t.sched = { seam := none, nextPitch := 0, ring := [], gap1 := 0, gap2 := 0, reservation := 0, blanks := 0
                    gateOpen := false, clutches := { d1 := false, d2 := false, d3 := false, d4 := false, shelf := false } }
      ∧ outputLines t = {
          driveMain := .low, driveDuplex := .low, driveBelt := .low, clutch1 := .low, clutch2 := .low, clutch3 := .low
          clutch4 := .low, clutch5 := .low, gate := .low, diverterA := .low, diverterB := .low, push := .high, dump := .high }
      ∧ t.report.timeTag = 0 ∧ t.report.mask = 0xFFFF
      ∧ t.path.runActive = false ∧ t.path.params = none ∧ t.path.drives = false ∧ t.path.silence = 0
      ∧ t.path.stopUpstream = asserted (.stop .upstream) lines.stopUpstream
      ∧ t.path.stopCollator = asserted (.stop .collator) lines.stopCollator
      ∧ t.path.stopPanel = asserted (.stop .panel) lines.stopPanel
      ∧ t.collator.held = none ∧ t.collator.list = [] ∧ t.collator.timer = none ∧ t.collator.push = false
      ∧ t.collator.dump = false
      ∧ (asserted .collatorFault lines.collatorFault = false →
          t.path.state = .idle ∧ t.path.faultStop = false ∧ t.path.stopRecord = none
            ∧ t.report.latch = 0 ∧ t.report.queue = [] ∧ t.collator.mode = .empty)
      ∧ (asserted .collatorFault lines.collatorFault = true →
          t.path.state = .stopped ∧ t.path.faultStop = true ∧ t.collator.mode = .faulted
            ∧ t.report.latch = conditionBit .collatorFault)

/-! ## SHEET records -/

/-- R23, R31, R34, R54: a SHEET record that passes every check as a new set, a reprint start or a continuation and finds room
joins the order queue, with the registry's effect of its kind; LAST seals the set. That in HALTING the halt test follows the
whole step is the model's reading (log 12, DEDUCED). -/
def Obligations.AcceptedSheetJoinsQueueAndRegistry : Prop :=
  ∀ (s : State) (tag : Tag) (body : List Byte) (r : SheetRecord) (p : RunParams) (how : SheetPass),
    recordReady s → s.path.runActive = true → s.path.params = some p → parseSheet tag body = some r →
    noOtherFailed r.sheet.set s.registry → passesAs how r p s → ¬lacksRoom how s → reportRoom 2 s →
    runsTo (.sheet tag body) s (afterAccepted how r s)

/-- R24, R26 to R33, R40, R176: SHEET refusals that spoil nothing, with their codes, those of the media and length checks of a
new set and of a reprint start among them; nothing changes but the report unit. No FAILED entry of another set stands, so R26
removes nothing. -/
def Obligations.SheetRefusalsThatSpoilNothing : Prop :=
  ∀ (s : State) (tag : Tag) (body : List Byte), recordReady s → reportRoom 2 s →
    let refused (c : RefusalCode) : Prop :=
      exec (.sheet tag body) s = .next (afterRefusal (some tag) (some .sheet) c s)
    (parseSheet tag body = none → refused .badField)
      ∧ ∀ r, parseSheet tag body = some r →
        (s.path.runActive = false → refused .noRun)
        ∧ (s.path.runActive = true → noOtherFailed r.sheet.set s.registry → sheetAbsorbed r s.registry = false →
            ((∃ e ∈ s.registry, e.state = .open ∧ e.set ≠ r.sheet.set) → refused .interleaved)
            ∧ (noOtherOpen r.sheet.set s.registry → (∀ e ∈ s.registry, e.set ≠ r.sheet.set) →
                (¬(r.sheet.attempt = 0 ∧ r.sheet.seq = 1) → refused .badSequence)
                ∧ ∀ p, s.path.params = some p → r.sheet.attempt = 0 → r.sheet.seq = 1 →
                    (keptBack p s.registry → refused .outOfSequence)
                    ∧ (¬keptBack p s.registry → ∀ c, mediaRefusal r p s.tables c → refused c)
                    ∧ (¬keptBack p s.registry → mediaPasses r p s.tables → s.path.state ≠ .running →
                        s.path.state ≠ .halting → 32 ≤ s.orders.length ∨ 16 ≤ s.registry.length →
                        refused .wrongState))
            ∧ (noOtherOpen r.sheet.set s.registry → ∀ e, findSet r.sheet.set s.registry = some e →
                (e.attempt < r.sheet.attempt → refused .attemptTooHigh)
                ∧ (r.sheet.attempt = e.attempt → e.state = .failed ∨ e.state = .spoiled →
                    refused .reprintNotRequested)
                ∧ (r.sheet.attempt = e.attempt → e.state = .awaitingReprint → r.sheet.seq ≠ 1 →
                    refused .badSequence)
                ∧ (r.sheet.attempt = e.attempt → e.state = .awaitingReprint → r.sheet.seq = 1 →
                    ∀ p, s.path.params = some p →
                    (keptBack p (older r.sheet.set s.registry) → refused .outOfSequence)
                    ∧ (¬keptBack p (older r.sheet.set s.registry) → ∀ c, mediaRefusal r p s.tables c → refused c))
                ∧ (r.sheet.attempt ≤ e.attempt → e.state = .sealed ∨ e.state = .delivering →
                    refused .badSequence)))

/-- R28, R29, R32, R33, R44 to R47, R49 to R52, R60, R165: a record of the OPEN set that is refused with BAD_SEQUENCE,
UNKNOWN_MEDIA, DUPLEX_NOT_PERMITTED or SET_TOO_LONG has its REFUSAL queued, and its set is then spoiled with reason ORDER. With
no sheet of it in the machine the set drains at once, and in RELAXED it is resolved. In STRICT every younger set that can be
spoiled is withdrawn with reason CASCADE, its own failures unchanged; with no sheet of any of them in the machine they drain
too: each receives its REPRINT, oldest first, or, behind an older SPOILED set, all are held, and no REPRINT is queued. With a
sheet of the set in the machine it is left SPOILED, its sheets flagged. That in HALTING the halt test follows the whole step
is the model's reading (log 12, DEDUCED). -/
def Obligations.OrderSpoilWithdrawsTheOpenSet : Prop :=
  ∀ (s : State) (tag : Tag) (body : List Byte) (r : SheetRecord) (p : RunParams) (e : SetEntry)
    (old young : List SetEntry) (c : RefusalCode),
    recordReady s → s.path.runActive = true → s.path.params = some p → parseSheet tag body = some r →
    noOtherFailed r.sheet.set s.registry → noOtherOpen r.sheet.set s.registry →
    s.registry = old ++ e :: young → (s.registry.map (fun x => x.set)).Nodup → e.set = r.sheet.set → e.state = .open →
    e.attempt < 255 → openRefusal r e p s.tables c →
    let refused := afterRefusal (some tag) (some .sheet) c s
    let first := spoiledEntry .order true e
    let hit : SetEntry → SetEntry := fun y => if canSpoil y then spoiledEntry .cascade false y else y
    let spoiled := first :: young.map hit
    let stripped := withoutOrders ((hitSets p e young).map (fun y => y.set)) s
    let spoilLatched := afterLatching .spoil refused.report
    (p.policy = .relaxed → absent e.set s → reportRoom 7 s →
        runsTo (.sheet tag body) s { stripped with
          registry := old ++ resolvedEntry first :: young
          report := afterResolution first spoilLatched })
      ∧ (p.policy = .strict → e.ownFailures < 2 →
          (∀ y ∈ e :: young, y.attempt < 255 ∧ y.failing = false ∧ y.state ≠ .spoiled) →
          (∀ y ∈ hitSets p e young, absent y.set s) → reportRoom (8 + young.length) s →
          ((∀ o ∈ old, o.state ≠ .spoiled) →
            runsTo (.sheet tag body) s { stripped with
              registry := old ++ spoiled.map (fun y => if y.state = .spoiled then resolvedEntry y else y)
              report := (spoiled.filter (fun y => decide (y.state = .spoiled))).foldl
                (fun u y => afterResolution y u) spoilLatched })
          ∧ ((∃ o ∈ old, o.state = .spoiled) →
            runsTo (.sheet tag body) s { stripped with
              registry := old ++ spoiled.map (fun y => if y.state = .spoiled then { y with drained := true } else y)
              report := spoilLatched }))
      ∧ (spoilStands p old e young s → s.path.state ≠ .halting ∨ s.tracker.table ≠ [] → reportRoom 3 s →
          exec (.sheet tag body) s = .next (afterSpoil .order p old e young refused))

/-- R25, R26, R38, R40: an old-attempt record of a withdrawn set is absorbed, with no report and no change but the removal of
other sets' FAILED entries (the path not HALTING, where that removal calls for the halt test). A new set, a reprint start or a
continuation that passes every check but lacks queue or registry room holds the link, and nothing else changes, where the hold
can end by itself: the path is RUNNING or HALTING, and where registry room is lacking an entry is SEALED or DELIVERING.
Otherwise it is refused with WRONG_STATE, which spoils nothing. -/
def Obligations.SheetIsAbsorbedOrHoldsTheLink : Prop :=
  ∀ (s : State) (tag : Tag) (body : List Byte) (r : SheetRecord),
    recordReady s → s.path.runActive = true → parseSheet tag body = some r →
    (∀ e, findSet r.sheet.set s.registry = some e → s.path.state ≠ .halting →
        e.state = .spoiled ∨ e.state = .failed ∨ e.state = .awaitingReprint → r.sheet.attempt < e.attempt →
        exec (.sheet tag body) s = .next { s with
          registry := s.registry.filter (fun x => !decide (x.state = .failed ∧ x.set ≠ r.sheet.set)) })
      ∧ ∀ (p : RunParams) (how : SheetPass), s.path.params = some p → noOtherFailed r.sheet.set s.registry →
        passesAs how r p s → lacksRoom how s →
        (holdEnds how s → exec (.sheet tag body) s = .next { s with intake := { s.intake with
            held := some r
            rx := { s.intake.rx with
              frames := [{ bytes := recordFrame 0x01 tag body, broken := false, headless := false }] } } })
        ∧ (¬holdEnds how s → reportRoom 2 s →
            exec (.sheet tag body) s = .next (afterRefusal (some tag) (some .sheet) .wrongState s))

/-- R38, R181: while the link is held no record is taken; a record command changes the receive buffer alone, and the
level-read lines it carries. -/
def Obligations.HeldLinkTakesNoRecord : Prop :=
  ∀ (c : Instr) (s t : State), s.intake.held.isSome = true → isRecord c = true → exec c s = .next t →
    t = { s with inputs := t.inputs, intake := { s.intake with rx := t.intake.rx } } ∧ partReady t.intake = false

/-- R25, R39, R40, R181: with the link not held, HELD_SHEET_RETRY does nothing; a held record, a new set, a reprint start or a
continuation, stays held while room is lacking and the hold can end by itself, is accepted once it has room, and is refused
with WRONG_STATE where it cannot; one whose set has been withdrawn meanwhile is absorbed. With the hold's end the next frame has
its turn (that it is the next command is log 6). That in HALTING the halt test follows the whole step is the model's reading
(log 12, DEDUCED). -/
def Obligations.HeldSheetRetryEndsTheHold : Prop :=
  (∀ s : State, s.intake.held = none → exec .heldSheetRetry s = .next s)
    ∧ ∀ (s : State) (r : SheetRecord), s.intake.held = some r →
      let left : List Frame := s.intake.rx.frames.drop 1
      let freed (turn : List Instr) : State := { s with
        pending := turn ++ s.pending
        intake := { s.intake with held := none, rx := { s.intake.rx with frames := left } } }
      (∀ e, findSet r.sheet.set s.registry = some e → e.state = .spoiled ∨ e.state = .failed ∨ e.state = .awaitingReprint →
          r.sheet.attempt < e.attempt →
          ∃ turn, headTurn left turn ∧ exec .heldSheetRetry s = .next (freed turn))
      ∧ ∀ (p : RunParams) (how : SheetPass), s.path.params = some p → passesAs how r p s → reportRoom 2 s →
        (lacksRoom how s → holdEnds how s → exec .heldSheetRetry s = .next s)
        ∧ (¬lacksRoom how s → ∃ turn, headTurn left turn ∧ runsTo .heldSheetRetry s (afterAccepted how r (freed turn)))
        ∧ (lacksRoom how s → ¬holdEnds how s → ∃ turn, headTurn left turn
            ∧ exec .heldSheetRetry s = .next (afterRefusal (some r.tag) (some .sheet) .wrongState (freed turn)))

/-! ## The run's records -/

/-- R136, R137, R139, R177: a START RUN that is taken. -/
def Obligations.StartRunBeginsTheRun : Prop :=
  ∀ (s : State) (tag : Tag) (p : RunParams) (e r : Wire),
    asserted .shelfEmpty e = true → asserted .collatorReady r = true →
    recordReady s → s.path.state = .idle → p.setGap ≤ 3 → 100 ≤ p.timeout → p.timeout ≤ 5000 →
    s.tables.station.isSome = true → s.tables.segment.isSome = true → s.tables.belt.isSome = true →
    (∃ i : Fin 16, (bankEntries s.tables s.tables.active)[i].isSome = true) → linesClear s →
    s.collator.mode = .empty → stopSetActive s.path = false → reportRoom 1 s →
    ∃ v, resampled s.stations v ∧
      exec (.startRun tag (startRunBody p) e r) s = .next { s with
        inputs := { s.inputs with shelfEmpty := e, collatorReady := r }
        stations := v
        points := pointsBut isBeltPoint (pointsBut isDebounce s.points)
        path := { s.path with state := .running, runActive := true, params := some p, drives := true }
        sched := { s.sched with gap1 := 0, gap2 := 0, reservation := 0, blanks := 0, seam := none, nextPitch := 0 }
        report := withReports [.path .running true] s.report }

/-- R138: how a START RUN is judged, in the order of its table; a refused one changes the report unit alone, and the
level-read lines it carries; one that meets no case is taken, and the run is active with its parameters. -/
def Obligations.StartRunIsJudged : Prop :=
  ∀ (s : State) (tag : Tag) (body : List Byte) (e r : Wire), recordReady s → reportRoom 2 s →
    let refused (c : RefusalCode) : Prop :=
      exec (.startRun tag body e r) s = .next (afterRefusal (some tag) (some .startRun) c
        { s with inputs := { s.inputs with shelfEmpty := e, collatorReady := r } })
    (s.path.state ≠ .idle → refused .wrongState)
      ∧ (s.path.state = .idle → parseStartRun body = none → refused .badField)
      ∧ ∀ p, s.path.state = .idle → parseStartRun body = some p →
        (3 < p.setGap ∨ p.timeout < 100 ∨ 5000 < p.timeout → refused .outOfRange)
        ∧ (p.setGap ≤ 3 → 100 ≤ p.timeout → p.timeout ≤ 5000 →
            let complete : Prop := s.tables.station.isSome = true ∧ s.tables.segment.isSome = true
              ∧ s.tables.belt.isSome = true ∧ ∃ i : Fin 16, (bankEntries s.tables s.tables.active)[i].isSome = true
            let clear : Prop := linesClear s ∧ asserted .shelfEmpty e = true ∧ s.collator.mode = .empty ∧ asserted .collatorReady r = true
              ∧ stopSetActive s.path = false
            (¬complete → refused .tablesIncomplete)
            ∧ (complete → ¬clear → refused .notClear)
            ∧ (complete → clear → ∃ t, exec (.startRun tag body e r) s = .next t ∧ t.path.state = .running
                ∧ t.path.runActive = true ∧ t.path.params = some p))

/-- R140, R141, R137, R169: HALT in each path state, with both outcomes of the halt test in RUNNING. -/
def Obligations.HaltHaltsOrWaits : Prop :=
  ∀ (s : State) (tag : Tag), recordReady s → reportRoom 3 s →
    (s.path.state = .running → ¬haltable s → exec (.halt tag []) s = .next { s with
        path := { s.path with state := .halting }
        report := withReports [.path .halting s.path.runActive] s.report })
      ∧ (s.path.state = .running → haltable s → exec (.halt tag []) s = .next { s with
          path := { s.path with state := .halted, drives := false }
          sched := { s.sched with seam := none, nextPitch := 0, clutches := Clutches.released }
          points := pointsBut isBeltPoint s.points
          report := withReports [.path .halted s.path.runActive]
            (afterLatching .halted (withReports [.path .halting s.path.runActive] s.report)) })
      ∧ (s.path.state = .halting ∨ s.path.state = .halted → exec (.halt tag []) s = .next s)
      ∧ (s.path.state = .idle ∨ s.path.state = .stopped →
          exec (.halt tag []) s = .next (afterRefusal (some tag) (some .halt) .wrongState s))

/-- R142, R137, R177: RESUME in each path state. -/
def Obligations.ResumeResumesOrIsRefused : Prop :=
  ∀ (s : State) (tag : Tag) (ready : Wire), recordReady s → reportRoom 2 s →
    let s₁ : State := { s with inputs := { s.inputs with collatorReady := ready } }
    let refused (c : RefusalCode) : Prop :=
      exec (.resume tag [] ready) s = .next (afterRefusal (some tag) (some .resume) c s₁)
    let latched : Prop := hasCondition s.report.latch .jam = true ∨ hasCondition s.report.latch .beltSlip = true
      ∨ hasCondition s.report.latch .collatorFault = true ∨ hasCondition s.report.latch .externalStop = true
    let clear : Prop := s.collator.mode = .empty ∧ asserted .collatorReady ready = true ∧ stopSetActive s.path = false
    (s.path.state = .halting → exec (.resume tag [] ready) s = .next { s₁ with
        path := { s.path with state := .running }
        report := withReports [.path .running s.path.runActive] s.report })
      ∧ (s.path.state = .running → exec (.resume tag [] ready) s = .next s₁)
      ∧ (s.path.state = .halted → latched → refused .conditionsSet)
      ∧ (s.path.state = .halted → ¬latched → ¬clear → refused .notClear)
      ∧ (s.path.state = .halted → ¬latched → clear → exec (.resume tag [] ready) s = .next { s₁ with
          path := { s.path with state := .running, drives := true }
          sched := { s.sched with seam := none, nextPitch := 0, blanks := 0 }
          points := pointsBut isBeltPoint s.points
          report := withReports [.path .running s.path.runActive] s.report })
      ∧ (s.path.state = .idle ∨ s.path.state = .stopped → refused .wrongState)

/-- R57, R59, R143: END RUN taken in HALTED with the collator EMPTY; and its refusals. -/
def Obligations.EndRunWithdrawsEverySet : Prop :=
  ∀ (s : State) (tag : Tag), recordReady s →
    (s.path.state = .halted → s.collator.mode = .empty → reportRoom (s.registry.length + 1) s →
        exec (.endRun tag []) s = .next { s with
          orders := []
          registry := []
          tables := (s.orders.map (fun o => o.gen)).foldl (fun t b => releaseRef b t) s.tables
          path := { s.path with state := .idle, runActive := false, params := none }
          report := withReports
            ((s.registry.filter (fun e => decide (e.state ≠ .failed))).map
              (fun e => .setDone e.set e.attempt .withdrawn 0) ++ [.path .idle false]) s.report })
      ∧ (s.path.state = .halted → s.collator.mode ≠ .empty → reportRoom 2 s →
          exec (.endRun tag []) s = .next (afterRefusal (some tag) (some .endRun) .notClear s))
      ∧ (s.path.state ≠ .halted → reportRoom 2 s →
          exec (.endRun tag []) s = .next (afterRefusal (some tag) (some .endRun) .wrongState s))

/-- R149: how a PATH CLEARED is judged. A refused one changes the report unit alone, and the level-read lines it
carries; whether the fault stop is active, and the collator's state and ready line, do not refuse it. -/
def Obligations.PathClearedIsJudged : Prop :=
  ∀ (s : State) (tag : Tag) (empty ready : Wire), recordReady s → reportRoom 2 s →
    let s₁ : State := { s with inputs := { s.inputs with shelfEmpty := empty, collatorReady := ready } }
    let refused (c : RefusalCode) : Prop :=
      exec (.pathCleared tag [] empty ready) s = .next (afterRefusal (some tag) (some .pathCleared) c s₁)
    let clear : Prop := 200 ≤ s.path.silence ∧ linesClear s ∧ asserted .shelfEmpty empty = true ∧ s.path.stopUpstream = false
      ∧ s.path.stopCollator = false ∧ s.path.stopPanel = false
    (s.path.state ≠ .stopped → refused .wrongState)
      ∧ (s.path.state = .stopped → ¬clear → refused .notClear)
      ∧ (s.path.state = .stopped → clear →
          ∃ t, exec (.pathCleared tag [] empty ready) s = .next t ∧ t.tracker.table = [] ∧ t.shelf = []
            ∧ t.sched.ring = [])

/-- R48, R82, R110, R119, R131, R132, R150, R165: what a taken PATH CLEARED leaves, its stranding among it: the sets of the
sheets removed, of the collator's tray given up and of the sheet the stop named are spoiled STRANDED, the named sheet's
alone counting an own failure; in STRICT the sets younger than the oldest of them are cascaded; and each that drains is
resolved, its REPRINT queued. That the set held by a FAULTED collator, not ready, is handed where a sheet of it was removed or
named is the model's reading (log 35). -/
def Obligations.PathClearedRecoversThePath : Prop :=
  ∀ (s : State) (tag : Tag) (empty ready : Wire), asserted .shelfEmpty empty = true → recordReady s → s.path.state = .stopped → 200 ≤ s.path.silence →
    linesClear s → lineStopActive s.path = false →
    ∃ t, exec (.pathCleared tag [] empty ready) s = .next t
      ∧ t.tracker = { table := [], diverter := .free, line := .prg } ∧ t.shelf = [] ∧ t.points = []
      ∧ t.sched = { s.sched with
          seam := none, nextPitch := 0, ring := [], gap1 := 0, gap2 := 0, reservation := 0, gateOpen := false
          clutches := Clutches.released }
      ∧ resampled s.stations t.stations ∧ t.imager.out = s.imager.out ++ [ringFlushFrame]
      ∧ t.counters = s.counters ∧ t.intake = s.intake ∧ t.report.mask = s.report.mask
      ∧ t.path.runActive = s.path.runActive ∧ t.path.params = s.path.params ∧ t.path.silence = s.path.silence
      ∧ ((s.registry.map (fun e => e.set)).Nodup → ∀ e ∈ t.registry, e.state = .delivering → e ∈ s.registry)
      ∧ (s.collator.mode = .collecting → t.collator.mode = .dumping ∧ t.collator.dump = true
          ∧ t.collator.held = s.collator.held ∧ t.collator.list = s.collator.list)
      ∧ (s.collator.mode = .empty ∨ s.collator.mode = .pushing ∨ s.collator.mode = .dumping → t.collator = s.collator)
      ∧ (s.collator.mode = .faulted → asserted .collatorReady ready = true → t.collator.mode = .empty ∧ t.collator.list = []
          ∧ t.collator.held = none)
      ∧ (¬(s.collator.mode = .faulted ∧ asserted .collatorReady ready = false) →
          t.path.state = (if s.path.runActive then .halted else .idle) ∧ t.path.faultStop = false
            ∧ t.path.stopRecord = none)
      ∧ (s.collator.mode = .faulted → asserted .collatorReady ready = false →
          t.collator = s.collator ∧ t.path.state = .stopped ∧ t.path.faultStop = true
            ∧ t.path.stopRecord = some { cause := .collatorFault, station := none, named := none, deviation := none }
            ∧ hasCondition t.report.latch .collatorFault = true)
      ∧ (ReferenceLaw s → ∀ b, refsOf t.tables b = (t.orders.filter (fun o => decide (o.gen = b))).length)
      ∧ let named : Option SetNumber := (s.path.stopRecord.bind (fun r => r.named)).map (fun n => n.sheet.set)
        let givenUp : Option SetNumber :=
          if s.collator.mode = .collecting ∨ (s.collator.mode = .faulted ∧ asserted .collatorReady ready = true)
          then s.collator.held.map (fun h => h.set) else none
        let handed : SetNumber → Bool := fun n =>
          s.tracker.table.any (fun x => decide (x.sheet.set = n)) || decide (givenUp = some n) || decide (named = some n)
        let stranded : SetEntry → SetEntry := fun e => spoiledEntry .stranded (decide (named = some e.set)) e
        (s.registry.map (fun e => e.set)).Nodup → (∀ e ∈ s.registry, e.attempt < 255) →
          (∀ p, s.path.params = some p → p.policy = .relaxed →
            let settled : SetEntry → SetEntry := fun e =>
              if t.collator.mode ≠ .empty ∧ t.collator.held.map (fun h => h.set) = some e.set then e else resolvedEntry e
            t.registry = s.registry.map (fun e =>
                if handed e.set then
                  if canSpoil e then settled (stranded e)
                  else if e.state = .spoiled ∧ e.drained = false then settled e else e
                else e)
              ∧ t.orders = s.orders.filter (fun o =>
                  !s.registry.any (fun e => decide (e.set = o.sheet.set ∧ canSpoil e) && handed e.set)))
          ∧ (∀ (p : RunParams) (old young : List SetEntry) (e : SetEntry), s.path.params = some p → p.policy = .strict →
            t.collator.mode = .empty → s.registry = old ++ e :: young → handed e.set = true → canSpoil e →
            (∀ o ∈ old, ¬(handed o.set = true ∧ canSpoil o)) → (∀ o ∈ s.registry, o.state ≠ .spoiled) →
            t.registry = old ++ (e :: young).map (fun y =>
                if canSpoil y then resolvedEntry (if handed y.set then stranded y else spoiledEntry .cascade false y) else y)
              ∧ t.orders = s.orders.filter (fun o => decide (∀ y ∈ e :: young, canSpoil y → o.sheet.set ≠ y.set)))
          ∧ (reportRoom (s.registry.length + 8) s → ∀ e' ∈ t.registry, e'.state = .awaitingReprint →
              (∀ e ∈ s.registry, e.set = e'.set → canSpoil e) →
              ∃ r ∈ t.report.queue, r.body = .reprint e'.set e'.attempt e'.reason e'.ownFailures)

/-- R151, R58, R82, R110, R120, R134, R163, R165, R171, R178: RUN RESET in every path state and with any load open. The
line sources, the tables in force and the media banks' entries are kept, and the bank of an abandoned MEDIA load becomes
FREE, as a RETIRING one does when its last reference goes. -/
def Obligations.RunResetReturnsTheRunToNothing : Prop :=
  ∀ (s : State) (tag : Tag) (empty : Wire), linkIdle s →
    ∃ t, exec (.runReset tag [] empty) s = .next t
      ∧ t.orders = [] ∧ t.registry = [] ∧ t.shelf = [] ∧ t.points = [] ∧ t.intake = { s.intake with load := none }
      ∧ t.inputs = { s.inputs with shelfEmpty := empty }
      ∧ t.tracker = { table := [], diverter := .free, line := .prg }
      ∧ t.sched = { seam := none, nextPitch := 0, ring := [], gap1 := 0, gap2 := 0, reservation := 0, blanks := 0
                    gateOpen := false, clutches := Clutches.released }
      ∧ t.collator = { mode := .empty, held := none, list := [], timer := none, push := false, dump := false }
      ∧ resampled s.stations t.stations ∧ t.counters = s.counters
      ∧ t.imager = { s.imager with out := s.imager.out ++ [ringFlushFrame] } ∧ t.orderOut = s.orderOut
      ∧ t.report.mask = s.report.mask ∧ t.report.timeTag = s.report.timeTag
      ∧ t.tables = { s.tables with inactive := t.tables.inactive, refs0 := t.tables.refs0, refs1 := t.tables.refs1 }
      ∧ ((∃ l, s.intake.load = some l ∧ l.buffer = .media) → t.tables.inactive = .free)
      ∧ ((∀ l, s.intake.load = some l → l.buffer ≠ .media) → s.tables.inactive ≠ .retiring →
          t.tables.inactive = s.tables.inactive)
      ∧ (GeometryLaw s → ReferenceLaw s → t.tables.inactive = .free ∧ t.tables.refs0 = 0 ∧ t.tables.refs1 = 0)
      ∧ t.path.runActive = false ∧ t.path.params = none ∧ t.path.drives = false
      ∧ t.path.silence = s.path.silence ∧ t.path.stopUpstream = s.path.stopUpstream
      ∧ t.path.stopCollator = s.path.stopCollator ∧ t.path.stopPanel = s.path.stopPanel
      ∧ (linesClear s → asserted .shelfEmpty empty = true →
          t.path.state = .idle ∧ t.path.faultStop = false ∧ t.path.stopRecord = none
            ∧ t.report = { s.report with latch := 0, queue := [⟨s.report.timeTag, .path .idle false⟩] })
      ∧ (¬(linesClear s ∧ asserted .shelfEmpty empty = true) →
          t.path.state = .stopped ∧ t.path.faultStop = true
            ∧ t.path.stopRecord = some { cause := .resetWithPaper, station := none, named := none, deviation := none }
            ∧ t.report = withReports [.jam .resetWithPaper none none none [], .path .stopped false]
                (afterLatching .jam { s.report with latch := 0, queue := [] }))

/-! ## Conditions and reports -/

/-- R177: QUERY queues a STATUS report that shows the part as it stands, the report count before it joins. -/
def Obligations.QueryQueuesTheSnapshot : Prop :=
  ∀ (s : State) (tag : Tag), recordReady s → reportRoom 1 s →
    exec (.query tag []) s = .next { s with report := withReports [.status {
      pathState := s.path.state, runActive := s.path.runActive
      params := if s.path.runActive then s.path.params else none
      stopUpstream := s.path.stopUpstream, stopCollator := s.path.stopCollator, stopPanel := s.path.stopPanel
      stopFault := s.path.faultStop
      stopCause := if s.path.state = .stopped then s.path.stopRecord.map (fun r => r.cause) else none
      atRest := decide (200 ≤ s.path.silence), latch := s.report.latch, mask := s.report.mask
      orders := s.orders.length, registry := s.registry.length, tracks := s.tracker.table.length
      shelf := s.shelf.length, reservation := s.sched.reservation, ring := s.sched.ring.length
      reports := s.report.queue.length, blanks := s.sched.blanks, collator := s.collator.mode
      held := s.collator.held, collected := s.collator.list.length
      diverter := match s.tracker.diverter with | .free => .free | .set _ => .set | .busy _ => .busy
      diverterLine := s.tracker.line, trimMain := s.counters.main.trim, trimDuplex := s.counters.duplex.trim
      synced := s.sched.seam.isSome, activeBank := s.tables.active
      retiringBank := if s.tables.inactive = .retiring then some (otherBank s.tables.active) else none
      load := none, mediaLocks := s.tables.mediaLocks, stationLocks := s.tables.stationLocks }] s.report }

/-- R168, R170, R20: SET MASK replaces the mask, CLEAR CONDITIONS clears the named conditions and no other, and SET TRIM sets
the trim of the segment named; a body of the wrong length is refused with BAD_FIELD, and SET TRIM's other refusals. Where two
codes apply R20 gives no order: that a segment code above 1 is refused with BAD_FIELD whatever the value, out of range or not,
is the model's choice (log 31); of a value out of range while the segment table is undefined, one of the two codes answers. -/
def Obligations.MaskClearAndTrimAreSet : Prop :=
  ∀ (s : State) (tag : Tag), recordReady s →
    (∀ m : BitVec 16, exec (.setMask tag (natBytes 2 m.toNat)) s = .next { s with report := { s.report with mask := m } })
      ∧ (∀ m : BitVec 16, ∃ l, exec (.clearConditions tag (natBytes 2 m.toNat)) s
            = .next { s with report := { s.report with latch := l } }
          ∧ ∀ k, hasCondition l k = (hasCondition s.report.latch k && !hasCondition m k))
      ∧ (∀ v : Int, -512 ≤ v → v ≤ 511 → s.tables.segment.isSome = true →
          exec (.setTrim tag (0x00 :: intBytes 2 v)) s
              = .next { s with counters := { s.counters with main := { s.counters.main with trim := v } } }
            ∧ exec (.setTrim tag (0x01 :: intBytes 2 v)) s
              = .next { s with counters := { s.counters with duplex := { s.counters.duplex with trim := v } } })
      ∧ (reportRoom 2 s → ∀ body : List Byte,
          (body.length ≠ 2 → exec (.setMask tag body) s
              = .next (afterRefusal (some tag) (some .setMask) .badField s)
            ∧ exec (.clearConditions tag body) s
              = .next (afterRefusal (some tag) (some .clearConditions) .badField s))
          ∧ (body.length ≠ 3 → exec (.setTrim tag body) s
              = .next (afterRefusal (some tag) (some .setTrim) .badField s)))
      ∧ (reportRoom 2 s →
          let refused (body : List Byte) (c : RefusalCode) : Prop :=
            exec (.setTrim tag body) s = .next (afterRefusal (some tag) (some .setTrim) c s)
          (∀ g a b : Byte, 1 < g.toNat → refused [g, a, b] .badField)
            ∧ ∀ (g : Byte) (v : Int), g = 0x00 ∨ g = 0x01 → -32768 ≤ v → v ≤ 32767 →
                (v < -512 ∨ 511 < v → s.tables.segment.isSome = true → refused (g :: intBytes 2 v) .outOfRange)
                ∧ (-512 ≤ v → v ≤ 511 → s.tables.segment = none → refused (g :: intBytes 2 v) .tablesIncomplete)
                ∧ (v < -512 ∨ 511 < v → s.tables.segment = none →
                    refused (g :: intBytes 2 v) .outOfRange ∨ refused (g :: intBytes 2 v) .tablesIncomplete))

/-- R172, R181: the head of the report queue leaves while controller ready is asserted, and is sent whole; deasserted, or
with an empty queue, nothing leaves. -/
def Obligations.TransmissionTakesTheHead : Prop :=
  ∀ s : State,
    exec (.reportTransmit false) s = .next { s with inputs := { s.inputs with controllerReady := false } }
      ∧ (s.report.queue = [] →
          exec (.reportTransmit true) s = .next { s with inputs := { s.inputs with controllerReady := true } })
      ∧ ∀ r rest, s.report.queue = r :: rest →
          exec (.reportTransmit true) s = .next { s with
            inputs := { s.inputs with controllerReady := true }
            report := { s.report with queue := rest }
            orderOut := s.orderOut ++ [recordFrame (reportKindCode r.body) r.timeTag (reportBytes r.body)] }

/-! ## Tables -/

/-- R166: LOCK, UNLOCK and LOCK DOWN of a media index and of a station index, over the operation table, and the refusals
of a malformed body and of an index outside the table; a record that meets both is refused with either code, since R166 gives
no order of them (log 34). -/
def Obligations.LockRecordsFollowTheOperationTable : Prop :=
  ∀ (s : State) (tag : Tag), recordReady s →
    (reportRoom 2 s →
        let refused (i : Instr) (c : RefusalCode) : Prop :=
          exec i s = .next (afterRefusal (some tag) (some .lock) c s)
        (∀ body : List Byte, body.length ≠ 3 → refused (.lock tag body) .badField)
          ∧ (∀ rest : List Byte, rest.length ≠ 2 →
              refused (.unlock tag rest) .badField ∧ refused (.lockDown tag rest) .badField)
          ∧ (∀ o t m : Byte, o.toNat = 0 ∨ 3 < o.toNat ∨ t.toNat = 0 ∨ 2 < t.toNat →
              let outside : Prop := (t = 0x01 ∧ 15 < m.toNat) ∨ (t = 0x02 ∧ 13 < m.toNat)
              (¬outside → refused (.lock tag [o, t, m]) .badField)
                ∧ (outside → refused (.lock tag [o, t, m]) .badField ∨ refused (.lock tag [o, t, m]) .outOfRange))
          ∧ (∀ t m : Byte, t.toNat = 0 ∨ 2 < t.toNat →
              refused (.unlock tag [t, m]) .badField ∧ refused (.lockDown tag [t, m]) .badField)
          ∧ ∀ t m : Byte, (t = 0x01 ∧ 15 < m.toNat) ∨ (t = 0x02 ∧ 13 < m.toNat) →
              refused (.lock tag [0x01, t, m]) .outOfRange ∧ refused (.unlock tag [t, m]) .outOfRange
                ∧ refused (.lockDown tag [t, m]) .outOfRange)
    ∧ (∀ i : Fin 16,
        let m : Byte := BitVec.ofNat 8 i.val
        let now := s.tables.mediaLocks[i]
        let after (k : LockState) : State :=
          { s with tables := { s.tables with mediaLocks := s.tables.mediaLocks.set i k } }
        exec (.lock tag [0x01, 0x01, m]) s = .next (after (if now = .lockedDown then .lockedDown else .locked))
          ∧ exec (.lockDown tag [0x01, m]) s = .next (after .lockedDown)
          ∧ (now ≠ .lockedDown → exec (.unlock tag [0x01, m]) s = .next (after .unlocked))
          ∧ (now = .lockedDown → reportRoom 2 s →
              exec (.unlock tag [0x01, m]) s = .next (afterRefusal (some tag) (some .lock) .locked s)))
      ∧ ∀ i : Fin 14,
        let m : Byte := BitVec.ofNat 8 i.val
        let now := s.tables.stationLocks[i]
        let after (k : LockState) : State :=
          { s with tables := { s.tables with stationLocks := s.tables.stationLocks.set i k } }
        exec (.lock tag [0x01, 0x02, m]) s = .next (after (if now = .lockedDown then .lockedDown else .locked))
          ∧ exec (.lockDown tag [0x02, m]) s = .next (after .lockedDown)
          ∧ (now ≠ .lockedDown → exec (.unlock tag [0x02, m]) s = .next (after .unlocked))
          ∧ (now = .lockedDown → reportRoom 2 s →
              exec (.unlock tag [0x02, m]) s = .next (afterRefusal (some tag) (some .lock) .locked s))

/-- R154, R163: LOAD BEGIN with no load open: its refusals in order, and the load it opens with a copy of the present
table. -/
def Obligations.LoadBeginOpensTheLoad : Prop :=
  ∀ (s : State) (tag : Tag), recordReady s →
    let refused (body : List Byte) (c : RefusalCode) : Prop :=
      exec (.loadBegin tag body) s = .next (afterRefusal (some tag) (some .loadBegin) c s)
    let parked : Prop := s.path.state = .idle ∨ s.path.state = .halted
    (∀ count : Byte, 1 ≤ count.toNat → count.toNat ≤ 16 →
        let opened (b : LoadBuffer) : Intake := { s.intake with load := some ⟨b, count.toNat, .clean, false, false⟩ }
        (s.tables.inactive ≠ .retiring → exec (.loadBegin tag [0x01, count]) s = .next { s with
            intake := opened .media
            tables := { setBankEntries (otherBank s.tables.active) (bankEntries s.tables s.tables.active) s.tables with
              inactive := .loading } })
        ∧ (parked → ∃ v : Vector (Option StationEntry) 14,
            (∀ i : Fin 14, v[i] = s.tables.station.map (fun w => w[i]))
              ∧ exec (.loadBegin tag [0x02, count]) s = .next { s with intake := opened (.station v) })
        ∧ (parked → exec (.loadBegin tag [0x03, count]) s = .next { s with
            intake := opened (.segment (s.tables.segment.map (fun g => g.main))
              (s.tables.segment.map (fun g => g.duplex))) })
        ∧ (parked → exec (.loadBegin tag [0x04, count]) s = .next { s with intake := opened (.belt s.tables.belt) })
        ∧ (reportRoom 2 s → s.tables.inactive = .retiring → refused [0x01, count] .tablesBusy)
        ∧ (reportRoom 2 s → ¬parked → ∀ k : Byte, k = 0x02 ∨ k = 0x03 ∨ k = 0x04 → refused [k, count] .wrongState))
      ∧ (reportRoom 2 s →
          (∀ body : List Byte, body.length ≠ 2 → refused body .badField)
          ∧ (∀ k count : Byte, k.toNat = 0 ∨ 4 < k.toNat → refused [k, count] .badField)
          ∧ ∀ k count : Byte, 1 ≤ k.toNat → k.toNat ≤ 4 → count.toNat = 0 ∨ 16 < count.toNat →
              refused [k, count] .outOfRange)

/-- R155, R156: a LOAD ENTRY of each table while its load expects one is written at its index where it is well formed and
its index unlocked, an undefined media entry too; otherwise it marks its load BAD, which keeps the first reason, and is
not written. The remaining count decreases either way. -/
def Obligations.LoadEntryWritesOrMarks : Prop :=
  ∀ (s : State) (tag : Tag) (body : List Byte) (l : Load), linkIdle s → s.intake.load = some l → 0 < l.remaining →
    let next (l' : Load) : State := { s with intake := { s.intake with load := some { l' with remaining := l.remaining - 1 } } }
    let bad (m : LoadMark) : Load := { l with mark := if l.mark = .clean then m else l.mark }
    (∀ v, l.buffer = .station v →
        (∀ e (i : Fin 14), body.length = 10 → fieldNat body 0 1 = i.val → parseStationEntry body = some e →
          (s.tables.stationLocks[i] = .unlocked →
            exec (.loadEntry tag body) s = .next (next { l with buffer := .station (v.set i (some e)) }))
          ∧ (s.tables.stationLocks[i] ≠ .unlocked → exec (.loadEntry tag body) s = .next (next (bad .badLocked))))
        ∧ (body.length ≠ 10 ∨ 13 < fieldNat body 0 1 ∨ parseStationEntry body = none →
            exec (.loadEntry tag body) s = .next (next (bad .badField))))
      ∧ (∀ m d, l.buffer = .segment m d →
          (body.length = 7 → ∀ e, parseSegmentEntry body = some e →
            (fieldNat body 0 1 = 0 → exec (.loadEntry tag body) s
              = .next (next { l with buffer := .segment (some e) d, wroteMain := true }))
            ∧ (fieldNat body 0 1 = 1 → exec (.loadEntry tag body) s
              = .next (next { l with buffer := .segment m (some e), wroteDuplex := true })))
          ∧ (body.length ≠ 7 ∨ 1 < fieldNat body 0 1 ∨ parseSegmentEntry body = none →
              exec (.loadEntry tag body) s = .next (next (bad .badField))))
      ∧ (∀ b, l.buffer = .belt b →
          (∀ e, body.length = 20 → fieldNat body 0 1 = 0 → parseBeltEntry body = some e →
            exec (.loadEntry tag body) s = .next (next { l with buffer := .belt (some e) }))
          ∧ (body.length ≠ 20 ∨ 0 < fieldNat body 0 1 ∨ parseBeltEntry body = none →
              exec (.loadEntry tag body) s = .next (next (bad .badField))))
      ∧ (l.buffer = .media →
          (∀ e (i : Fin 16), body.length = 7 → fieldNat body 0 1 = i.val → parseMediaEntry body = some e →
            (s.tables.mediaLocks[i] = .unlocked → exec (.loadEntry tag body) s = .next { next l with
              tables := setBankEntries (otherBank s.tables.active)
                ((bankEntries s.tables (otherBank s.tables.active)).set i e) s.tables })
            ∧ (s.tables.mediaLocks[i] ≠ .unlocked → exec (.loadEntry tag body) s = .next (next (bad .badLocked))))
          ∧ (body.length ≠ 7 ∨ 15 < fieldNat body 0 1 ∨ parseMediaEntry body = none →
              exec (.loadEntry tag body) s = .next (next (bad .badField))))

/-- R158, R160, R162, R164: a LOAD COMMIT of a load with nothing remaining, judged in the rule's order: discarded with the
mark's reason, with STATE outside IDLE and HALTED where the table is not MEDIA, with INCOMPLETE, with GEOMETRY, or
committed (a SEGMENT commit is SegmentCommitZeroesWrittenTrims). A discard frees a MEDIA load's bank. That LOAD_DISCARDED's
ALERT precedes the TABLE report is the model's reading (log 21, DEDUCED). -/
def Obligations.LoadCommitJudgesTheLoad : Prop :=
  ∀ (s : State) (tag : Tag) (l : Load), linkIdle s → s.intake.load = some l → l.remaining = 0 → reportRoom 2 s →
    let closed : Intake := { s.intake with load := none }
    let parked : Prop := s.path.state = .idle ∨ s.path.state = .halted
    let discarded (r : DiscardReason) : Prop := exec (.loadCommit tag []) s = .next { s with
      intake := closed
      tables := if l.buffer = .media then { s.tables with inactive := .free } else s.tables
      report := withReports [.table (loadTable l) (.discarded r) tag] (afterLatching .loadDiscarded s.report) }
    (l.mark = .badField → discarded .field) ∧ (l.mark = .badLocked → discarded .locked)
      ∧ (l.mark = .clean → l.buffer ≠ .media → ¬parked → discarded .state)
      ∧ (l.mark = .clean → parked → ∀ v, l.buffer = .station v →
          ((∃ i : Fin 14, v[i] = none) → discarded .incomplete)
          ∧ ∀ w : Vector StationEntry 14, (∀ i : Fin 14, v[i] = some w[i]) →
            (checkStation w s.tables = false → discarded .geometry)
            ∧ (checkStation w s.tables = true → ∃ k, resampled s.stations k ∧
                exec (.loadCommit tag []) s = .next { s with
                  intake := closed
                  tables := { s.tables with station := some w }
                  stations := k
                  points := pointsBut isDebounce s.points
                  report := withReports [.table .station (.committed none) tag] s.report }))
      ∧ (l.mark = .clean → parked → ∀ m d, l.buffer = .segment m d →
          (m = none ∨ d = none → discarded .incomplete)
          ∧ ∀ em ed, m = some em → d = some ed → checkSegment ⟨em, ed⟩ s.tables = false → discarded .geometry)
      ∧ (l.mark = .clean → parked → l.buffer = .belt none → discarded .incomplete)
      ∧ (l.mark = .clean → parked → ∀ b, l.buffer = .belt (some b) →
          (checkBelt b s.tables = false → discarded .geometry)
          ∧ (checkBelt b s.tables = true → exec (.loadCommit tag []) s = .next { s with
              intake := closed
              tables := { s.tables with belt := some b }
              counters := { s.counters with belt := { s.counters.belt with nominal := some b.scale } }
              sched := { s.sched with seam := none, nextPitch := 0 }
              points := pointsBut isBeltPoint s.points
              report := withReports [.table .belt (.committed none) tag] s.report }))
      ∧ (l.mark = .clean → l.buffer = .media →
          (checkMedia s.tables = false → discarded .geometry)
          ∧ (checkMedia s.tables = true → exec (.loadCommit tag []) s = .next { s with
              intake := closed
              tables := { s.tables with
                active := otherBank s.tables.active
                inactive := if refsOf s.tables s.tables.active = 0 then .free else .retiring }
              report := withReports [.table .media (.committed (some (otherBank s.tables.active))) tag] s.report }))

/-- R17: a successful segment commit sets to 0 the trim of each segment whose entry a LOAD ENTRY of the load wrote,
keeps the other, and latches nothing; a belt commit changes no trim. -/
def Obligations.SegmentCommitZeroesWrittenTrims : Prop :=
  (∀ (s : State) (tag : Tag) (l : Load) (m d : SegmentEntry),
      linkIdle s → s.intake.load = some l → l.remaining = 0 → l.mark = .clean → l.buffer = .segment (some m) (some d) →
      s.path.state = .idle ∨ s.path.state = .halted → checkSegment ⟨m, d⟩ s.tables = true → reportRoom 1 s →
      exec (.loadCommit tag []) s = .next { s with
        intake := { s.intake with load := none }
        tables := { s.tables with segment := some ⟨m, d⟩ }
        counters := { s.counters with
          main := { s.counters.main with
            nominal := some m.scale, trim := if l.wroteMain then 0 else s.counters.main.trim }
          duplex := { s.counters.duplex with
            nominal := some d.scale, trim := if l.wroteDuplex then 0 else s.counters.duplex.trim } }
        report := withReports [.table .segment (.committed none) tag] s.report })
    ∧ (∀ (s t : State) (tag : Tag) (l : Load) (b : Option BeltEntry), linkIdle s → s.intake.load = some l →
        l.remaining = 0 → l.buffer = .belt b → exec (.loadCommit tag []) s = .next t →
        t.counters.main.trim = s.counters.main.trim ∧ t.counters.duplex.trim = s.counters.duplex.trim
          ∧ t.counters.belt.trim = s.counters.belt.trim)
    ∧ ∀ (s : State) (tag : Tag) (body : List Byte) (l : Load) (m d : Option SegmentEntry) (e : SegmentEntry),
        linkIdle s → s.intake.load = some l → 0 < l.remaining → l.buffer = .segment m d → body.length = 7 →
        parseSegmentEntry body = some e → fieldNat body 0 1 ≤ 1 →
        ∃ t l', exec (.loadEntry tag body) s = .next t ∧ t.intake.load = some l'
          ∧ l'.wroteMain = (l.wroteMain || decide (fieldNat body 0 1 = 0))
          ∧ l'.wroteDuplex = (l.wroteDuplex || decide (fieldNat body 0 1 = 1))

/-- R161: LOAD ABORT discards the open load whatever its remaining count and mark, latching nothing; and LOAD ENTRY,
LOAD COMMIT and LOAD ABORT with no load open are refused with NO_LOAD. -/
def Obligations.LoadAbortDiscardsTheLoad : Prop :=
  (∀ (s : State) (tag : Tag) (l : Load), linkIdle s → s.intake.load = some l → reportRoom 1 s →
      exec (.loadAbort tag []) s = .next { s with
        intake := { s.intake with load := none }
        tables := if l.buffer = .media then { s.tables with inactive := .free } else s.tables
        report := withReports [.table (loadTable l) (.discarded .aborted) tag] s.report })
    ∧ ∀ (s : State) (tag : Tag) (body : List Byte), recordReady s → reportRoom 2 s →
      exec (.loadEntry tag body) s = .next (afterRefusal (some tag) (some .loadEntry) .noLoad s)
        ∧ exec (.loadCommit tag []) s = .next (afterRefusal (some tag) (some .loadCommit) .noLoad s)
        ∧ exec (.loadAbort tag []) s = .next (afterRefusal (some tag) (some .loadAbort) .noLoad s)

/-- R157, R180: a frame of an unknown kind is refused with BAD_FIELD and kind NONE, and a record of a kind without a body
that has one is refused with BAD_FIELD. With a load open, every record that interrupts it first abandons it, latching
LOAD_SEQUENCE and queuing TABLE DISCARDED SEQUENCE, and is then taken with no load open; a LOAD BEGIN is then refused with
WRONG_STATE, a malformed one too by the model's reading (log 24). The order of that ALERT and the TABLE report is log 21. -/
def Obligations.UnknownKindIsRefusedAndInterrupts : Prop :=
  (∀ (s : State) (kind : Byte) (tag : Tag) (body : List Byte), recordReady s → kind.toNat = 0 ∨ 16 < kind.toNat →
      reportRoom 2 s → exec (.unknownKindRecord kind tag body) s = .next (afterRefusal (some tag) none .badField s))
    ∧ (∀ (s : State) (tag : Tag) (body : List Byte) (e r : Wire), recordReady s → body ≠ [] → reportRoom 2 s →
        let refused (c : Instr) (k : RecordKind) (s' : State) : Prop :=
          exec c s = .next (afterRefusal (some tag) (some k) .badField s')
        refused (.halt tag body) .halt s
          ∧ refused (.resume tag body r) .resume { s with inputs := { s.inputs with collatorReady := r } }
          ∧ refused (.endRun tag body) .endRun s
          ∧ refused (.pathCleared tag body e r) .pathCleared
              { s with inputs := { s.inputs with shelfEmpty := e, collatorReady := r } }
          ∧ refused (.runReset tag body e) .runReset { s with inputs := { s.inputs with shelfEmpty := e } }
          ∧ refused (.query tag body) .query s ∧ refused (.loadCommit tag body) .loadCommit s
          ∧ refused (.loadAbort tag body) .loadAbort s)
    ∧ ∀ (s : State) (l : Load) (c : Instr) (tag : Tag), linkIdle s → s.intake.load = some l → recordTag c = some tag →
        interrupts l.remaining c →
        (reportRoom 2 s → (∀ body, c ≠ .loadBegin tag body) → exec c s = exec c (afterInterruption tag l s))
          ∧ ∀ body, c = .loadBegin tag body → reportRoom 4 s →
              exec c s = .next (afterRefusal (some tag) (some .loadBegin) .wrongState (afterInterruption tag l s))

/-! ## Links -/

/-- R176, R179: a frame at the head that fails its check is discarded as BAD_FRAME, and judging resumes at the byte after its
sync byte; with no later bytes that start a frame, it has left the buffer, and the next frame has its turn. A frame that
passes its check, an empty buffer and a held link give no event. Bytes and gaps on the inward side (R179, R181): hunting, the
bytes of a frame, its last byte, and the gap that ends a partial frame, as an event of its own or as the milliseconds of the
clock: two between a frame's bytes leave it, three end it. At a full buffer a byte of a frame, its sync byte among them, is
discarded and its frame marked broken (R181). A frame that comes to the head of a free link's buffer has its turn as the
part's next command (log 6). That bytes take room from their arrival, and that a discarded byte still counts toward its
frame's end, is the model's reading (log 9, DEDUCED). That the event of a gap moves no clock is log 29, and where the clock's
milliseconds pass is log 1. -/
def Obligations.LinkBytesAreCollectedAndBadFramesDiscarded : Prop :=
  (∀ (s : State) (f : Frame) (rest : List Frame), s.intake.held = none → s.intake.rx.frames = f :: rest →
      s.intake.rx.collecting = none →
      frameGood f = false → (∀ b ∈ f.bytes.drop 1, b ≠ 0xA5) → (f.headless = true → f.bytes.head? ≠ some 0xA5) →
      reportRoom 2 s →
      ∃ turn, headTurn rest turn ∧ exec .badFrame s = .next (afterRefusal none none .badFrame
        { s with pending := turn ++ s.pending, intake := { s.intake with rx := { s.intake.rx with frames := rest } } }))
    ∧ (∀ s : State,
      s.intake.held.isSome = true ∨ s.intake.rx.frames = []
        ∨ (∃ f rest, s.intake.rx.frames = f :: rest ∧ frameGood f = true) →
      exec .badFrame s = .next s)
    ∧ (∀ f : Frame, f.broken = true → frameGood f = false)
    ∧ ∀ s : State,
        let first : Prop := s.intake.held = none ∧ s.intake.rx.frames = []
        let becomes (c : Instr) (rx : Receiver) : Prop := ∃ turn,
          (first → headTurn rx.frames turn) ∧ (¬first → turn = [])
            ∧ exec c s = .next { s with pending := turn ++ s.pending, intake := { s.intake with rx := rx } }
        let room : Prop := receiverUsed s.intake.rx < 512
        (s.intake.rx.collecting = none →
            (∀ b : Byte, b ≠ 0xA5 → exec (.orderLinkByte b) s = .next s)
            ∧ (room → becomes (.orderLinkByte 0xA5) { s.intake.rx with gap := 0, collecting := some {
                bytes := [0xA5], arrived := 1, bodyLen := none, broken := false, headless := false } })
            ∧ (¬room → becomes (.orderLinkByte 0xA5) { s.intake.rx with gap := 0, collecting := some {
                bytes := [], arrived := 1, bodyLen := none, broken := true, headless := true } })
            ∧ exec .interByteGap s = .next s)
          ∧ ∀ c, s.intake.rx.collecting = some c →
            let ended : Receiver := {
              frames := s.intake.rx.frames ++ [{ bytes := c.bytes, broken := true, headless := c.headless }]
              collecting := none, gap := 3 }
            becomes .interByteGap ended
            ∧ (s.pending = [] → s.intake.rx.gap ≤ 2 → ∃ t, step s = .next t
                ∧ t.intake = { s.intake with
                    rx := if s.intake.rx.gap < 2 then { s.intake.rx with gap := s.intake.rx.gap + 1 } else ended }
                ∧ (first → s.intake.rx.gap = 2 → t.pending = [.badFrame]))
            ∧ ∀ b : Byte,
              let len : Option Nat := if c.arrived = 2 then some b.toNat else c.bodyLen
              ((∃ n, len = some n ∧ c.arrived + 1 = n + 7) →
                (room → becomes (.orderLinkByte b) {
                  frames := s.intake.rx.frames ++ [{ bytes := c.bytes ++ [b], broken := c.broken, headless := c.headless }]
                  collecting := none, gap := 0 })
                ∧ (¬room → becomes (.orderLinkByte b) {
                  frames := s.intake.rx.frames ++ [{ bytes := c.bytes, broken := true, headless := c.headless }]
                  collecting := none, gap := 0 }))
              ∧ ((∀ n, len = some n → c.arrived + 1 ≠ n + 7) →
                (room → becomes (.orderLinkByte b) { s.intake.rx with gap := 0, collecting := some { c with
                  bytes := c.bytes ++ [b], arrived := c.arrived + 1, bodyLen := len } })
                ∧ (¬room → becomes (.orderLinkByte b) { s.intake.rx with gap := 0, collecting := some { c with
                  arrived := c.arrived + 1, bodyLen := len, broken := true } }))

/-- R179, R181, R184: a record's frame sent while part ready is asserted joins the buffer whole, behind the frames
already there, its check holds, and it carries the kind, length, tag and body that were sent. -/
def Obligations.SentRecordArrivesWhole : Prop :=
  ∀ (i : Intake) (kind : Byte) (tag : Tag) (body : List Byte),
    partReady i = true → i.rx.collecting = none → body.length ≤ 255 →
    let bytes := recordFrame kind tag body
    let frame : Frame := { bytes := bytes, broken := false, headless := false }
    receiveBytes i.rx bytes = { frames := i.rx.frames ++ [frame], collecting := none, gap := 0 } ∧ frameGood frame = true
      ∧ frameFields frame = some (kind, tag, body)
      ∧ bytes.take 3 = [0xA5, kind, BitVec.ofNat 8 body.length]
      ∧ beNat ((bytes.drop 3).take 2) = tag.toNat ∧ (bytes.drop 5).take body.length = body

/-- R23, R184: every SHEET record's body spells the record: no field is dropped. -/
def Obligations.SheetBodySpellsTheRecord : Prop :=
  ∀ r : SheetRecord, r.sheet.attempt ≤ 255 → 1 ≤ r.sheet.seq → r.sheet.seq ≤ 255 →
    parseSheet r.tag (sheetBody r) = some r

/-- R81, R182: an IMAGE FAULT with no matching ring entry is ignored; a matching one latches IMAGE_FAULT, flags the sheet and
hands its set to the registry: a set that is not OPEN, SEALED or DELIVERING the registry leaves as it is (R44); one that is,
with a sheet of it in the machine, moves into SPOILED undrained, in STRICT with its cascade, and a COLLECTING collator that
holds a set withdrawn dumps it at once or keeps it while a sheet of it is bound for OUT (R44 to R47, R49, R50, R97, R128).
Nine bytes that are no good IMAGE FAULT have no effect beyond the bytes hunting keeps in hand. That nine bytes arrive as one
command, and that fewer than nine stay in hand, is the model's choice (log 19). The retry of a held record that a step calls
for is the next command (R39, R135; log 11). -/
def Obligations.ImagerFramesAreTakenOrDiscarded : Prop :=
  (∀ s : State, s.imager.rx = [] →
    (∀ (pitch : Byte) (handle : Handle),
        ((∀ x ∈ s.sched.ring, ¬(x.pitch = pitch.toNat ∧ x.handle = some handle)) →
          exec (.imageFault pitch handle) s = .next s)
        ∧ ∀ before x after, s.sched.ring = before ++ x :: after →
            (∀ y ∈ before, ¬(y.pitch = pitch.toNat ∧ y.handle = some handle)) → x.pitch = pitch.toNat →
            x.handle = some handle →
            (∀ e ∈ s.registry, e.set = x.sheet.set → e.state ≠ .open ∧ e.state ≠ .sealed ∧ e.state ≠ .delivering) →
            reportRoom 1 s →
            exec (.imageFault pitch handle) s = .next { s with
              report := afterLatching .imageFault s.report
              tracker := { s.tracker with table := s.tracker.table.map (fun e => if e.sheet = x.sheet then
                { e with spoiled := some (e.spoiled.getD .image) } else e) } })
      ∧ ∀ frame : List Byte, frame.length = 9 → frame.head? = some 0x5A → faultOf frame = none →
        ∃ rest, rest.length < 9 ∧ rest <:+ frame
          ∧ exec (.imagerFrameDiscard frame) s = .next { s with imager := { s.imager with rx := rest } })
    ∧ ∀ (s : State) (pitch : Byte) (handle : Handle) (before after : List RingEntry) (x : RingEntry) (p : RunParams)
        (old young : List SetEntry) (e : SetEntry),
        s.imager.rx = [] → s.sched.ring = before ++ x :: after →
        (∀ y ∈ before, ¬(y.pitch = pitch.toNat ∧ y.handle = some handle)) → x.pitch = pitch.toNat → x.handle = some handle →
        spoilStands p old e young s → e.set = x.sheet.set → reportRoom 2 s →
        exec (.imageFault pitch handle) s
          = .next (retried s (afterSpoil .image p old e young { s with report := afterLatching .imageFault s.report }))

/-! ## Travel and edges -/

/-- R3, R5, R148: a forward count pays off debt; with none, it adds the effective scale and carries; with the scale undefined
it is discarded. It is encoder activity in each case. A carry reaches the points it passes, and delivers their events, which
come before every waiting command (log 3) but the line changes next in the queue that fall in its travel, in some order (log 33).
The phase lines' step is log 20, the reading of the drawer lines log 4. A phase error is discarded and counts only as encoder activity (R2); both phase lines change. -/
def Obligations.ForwardCountsCarryAndPhaseErrorsDoNot : Prop :=
  ∀ (s : State) (g : Segment) (l : DrawerLines) (m : Nat),
    let k := counterOf s.counters g
    let phased : Counter := { k with phaseA := !k.phaseB, phaseB := k.phaseA }
    let base : State := { s with path := { s.path with silence := 0 }, inputs := { s.inputs with drawers := l } }
    exec (.phaseError g) s = .next { s with
        path := { s.path with silence := 0 }
        counters := setCounter g { k with phaseA := !k.phaseA, phaseB := !k.phaseB } s.counters }
      ∧ (0 < k.debt → exec (.forwardCount ⟨g, l, m⟩) s
        = .next { base with counters := setCounter g { phased with debt := k.debt - 1 } s.counters })
      ∧ (k.debt = 0 → k.nominal = none →
          exec (.forwardCount ⟨g, l, m⟩) s = .next { base with counters := setCounter g phased s.counters })
      ∧ ∀ n : Nat, k.debt = 0 → k.nominal = some n → k.fraction ≤ 4095 → 512 ≤ (n : Int) + k.trim →
          (n : Int) + k.trim ≤ 16894 →
          ∃ carry f : Nat, (k.fraction : Int) + ((n : Int) + k.trim) = 4096 * carry + f ∧ f ≤ 4095 ∧ carry ≤ 5
            ∧ (let moved : Counter := { phased with position := k.position + BitVec.ofNat 20 carry, fraction := f }
               let counted : State := { base with counters := setCounter g moved s.counters }
               (carry = 0 → exec (.forwardCount ⟨g, l, m⟩) s = .next counted)
                ∧ (0 < carry → ∃ queue,
                    let after : State := { counted with
                      pending := queue
                      points := s.points.map (fun q => if q.segment = g ∧ 0 ≤ travelDiff moved.position q.position then
                        { q with reached := true } else q) }
                    eventsQueuedAmong m s.points s after ∧ exec (.forwardCount ⟨g, l, m⟩) s = .next after))

/-- R4: a reverse count raises the debt, held at 255, and changes neither position nor fraction, whether or not the scale
is defined; positions advance only by forward counts, and no command but power-on reset moves one otherwise. -/
def Obligations.ReverseCountOnlyRaisesDebt : Prop :=
  (∀ (s : State) (g : Segment), ∃ t, exec (.reverseCount g) s = .next t
      ∧ (let k := counterOf s.counters g
         let k' := counterOf t.counters g
         k'.debt = (if k.debt < 255 then k.debt + 1 else k.debt) ∧ k'.position = k.position
          ∧ k'.fraction = k.fraction ∧ k'.nominal = k.nominal ∧ k'.trim = k.trim)
      ∧ (∀ h, h ≠ g → counterOf t.counters h = counterOf s.counters h)
      ∧ t = { s with counters := t.counters, path := { s.path with silence := 0 } })
    ∧ ∀ (c : Instr) (s t : State) (g : Segment), isPowerOn c = false → (∀ l m, c ≠ .forwardCount ⟨g, l, m⟩) →
      exec c s = .next t →
      (counterOf t.counters g).position = (counterOf s.counters g).position
        ∧ (counterOf t.counters g).fraction = (counterOf s.counters g).fraction

/-- R9, R10, R14: a sensor line change with the station table undefined, with an edge pending, and with none pending, H above
0; and with H = 0, confirmed at once, as its debounce point reached would confirm it. A point already passed at its placing
has its event delivered at once (R5): it comes before every waiting command (log 3). -/
def Obligations.SensorChangeOpensOrCancels : Prop :=
  ∀ (s : State) (st : Station),
    let k := s.stations[stationId st]
    let now (k' : StationState) : State := { s with stations := s.stations.set (stationId st) k' }
    (s.tables.station = none → exec (.sensorChange st) s = .next (now { k with line := !k.line, level := !k.line }))
      ∧ ∀ v : Vector StationEntry 14, s.tables.station = some v →
        (∀ e, k.edge = some e → exec (.sensorChange st) s = .next { now { k with line := !k.line, edge := none } with
            points := pointsBut (fun q => decide (q = .debounce st)) s.points })
        ∧ (k.edge = none →
            let p := segPos s (stationSegment st)
            let x := p + BitVec.ofNat 20 v[stationId st].debounce
            let opened (reached : Bool) : State :=
              { now { k with line := !k.line, edge := some { blocked := !k.line, raw := p } } with
                points := pointsBut (fun q => decide (q = .debounce st)) s.points
                  ++ [⟨stationSegment st, x, .debounce st, reached⟩] }
            (0 < v[stationId st].debounce →
              runsDelivering (.sensorChange st) s s.points (opened (decide (0 ≤ travelDiff p x))))
            ∧ (v[stationId st].debounce = 0 → (∀ q ∈ s.points, q.event ≠ .debounce st) →
              exec (.sensorChange st) s = exec (.debouncePointReached st) (opened true)))

/-- R11, R12, R85: a debounce point reached confirms the pending edge: a trail at a lead-only station, or any edge while
the path is not RUNNING or HALTING, changes the level alone. A point not placed or not reached has no event (R5; log 3). -/
def Obligations.DebounceConfirmsTheEdge : Prop :=
  ∀ (s : State) (st : Station),
    (¬pointReached (.debounce st) s → exec (.debouncePointReached st) s = .next s)
      ∧ ∀ e, pointReached (.debounce st) s → (s.stations[stationId st]).edge = some e →
        (e.blocked = false ∧ (st = .d1x ∨ st = .d2x ∨ st = .d3x ∨ st = .d4x ∨ st = .shx ∨ st = .reg ∨ st = .inv ∨ st = .dxs))
          ∨ (s.path.state ≠ .running ∧ s.path.state ≠ .halting) →
        exec (.debouncePointReached st) s = .next { s with
          stations := s.stations.set (stationId st)
            { s.stations[stationId st] with level := e.blocked, edge := none }
          points := pointsBut (fun q => decide (q = .debounce st)) s.points }

/-- R85, R89, R90, R108, R146: a lead confirmed at a station that no entry expects is the jam LEAD_EARLY; one outside the
window of its head is LEAD_EARLY or LEAD_OVERDUE, naming it with its deviation. The retry of a held record that a step calls
for is the next command (R39, R135; log 11). -/
def Obligations.LeadOutsideItsWindowJams : Prop :=
  ∀ (s : State) (st : Station) (e : PendingEdge) (v : Vector StationEntry 14),
    s.path.state = .running → s.tables.station = some v → pointReached (.debounce st) s →
    (s.stations[stationId st]).edge = some e → e.blocked = true → (s.stations[stationId st]).level = false →
    reportRoom 3 s →
    let s₁ : State := { s with
      stations := s.stations.set (stationId st) { s.stations[stationId st] with level := true, edge := none }
      points := pointsBut (fun q => decide (q = .debounce st)) s.points }
    let q := e.raw + BitVec.ofInt 20 v[stationId st].latency
    ((∀ y ∈ s.tracker.table, ¬(y.next = some st ∧ y.expected.isSome = true)) →
        exec (.debouncePointReached st) s = .next (retried s (afterStop .jam
          { cause := .leadEarly, station := some st, named := none, deviation := none } true s₁)))
      ∧ ∀ y x, s.tracker.table = [y] → y.next = some st → y.expected = some x →
        let d := travelDiff q x
        let named : Option NamedSheet := some { tag := y.tag, sheet := y.sheet }
        let s₂ : State := { s₁ with points := pointsBut (fun q => decide (q = .leadDeadline y.sheet)) s₁.points }
        (d < -(v[stationId st].window : Int) → exec (.debouncePointReached st) s = .next (retried s (afterStop .jam
            { cause := .leadEarly, station := some st, named := named, deviation := some d } true s₂)))
        ∧ ((v[stationId st].window : Int) < d → exec (.debouncePointReached st) s = .next (retried s (afterStop .jam
            { cause := .leadOverdue, station := some st, named := named, deviation := some d } true s₂)))

/-- R18, R19, R76, R77, R85 to R87, R91, R93, R98 to R101, R104, R105, R108, R113, R114, R124: a lead on time at any station,
the path RUNNING or HALTING, whatever other sheets are in it. The last station passed and the trim start are recorded, an
automatic trim is made (R18, R19), a trail becomes pending at a lead-and-trail station, and the sheet goes on as the route
table says: from a source exit toward REG, the clutch released where no other sheet of the source is being fed; STAGED at REG,
or the jam OVERLAP; decided at FUS where the diverter is FREE; through the diverter at DIV, or the jam OVERLAP; into the
collator's hands at OUT, or the jam COLLATOR_OVERRUN; onto the shelf at DXS. What the entry that raises OVERLAP keeps is the
model's reading (log 14, DEDUCED): at DIV its trail is pending and it still expects DIV at its old position; at REG it expects
nothing. The event of a deadline or settle point that is already passed when it is placed is delivered at once (R5): it comes
before every waiting command (log 3), in some order (log 33). The retry of a held record that a step calls for is the next
command (R39, R135; log 11). -/
def Obligations.OnTimeLeadAdvancesTheSheet : Prop :=
  ∀ (s : State) (st : Station) (raw x : Pos) (y : Track) (before after : List Track) (v : Vector StationEntry 14)
    (m : MediaEntry) (p : RunParams) (g : SegmentTable),
    leadOnTime st raw x y before after v s → (bankEntries s.tables y.gen)[y.media] = some m → s.path.params = some p →
    s.tables.segment = some g → reportRoom 4 s →
    let q := confirmedAt v st raw
    let s₁ := afterTrim st (trimError v st q g y) (edgeTaken st true s)
    let gone : Track := { y with lastPassed := some st, trimStart := trimStartAfter st q g y }
    let trailed := trailing v m st q gone
    let leadLeft := pointsBut (fun e => decide (e = .leadDeadline y.sheet)) s₁.points
    let pended := pointsBut (fun e => decide (e = .trailDeadline y.sheet)) leadLeft
      ++ [pointAt s (stationSegment st) (trailDeadlineOf v m st q y) (.trailDeadline y.sheet)]
    let leadPoint (n : Station) (xn : Pos) : Point :=
      pointAt s (stationSegment n) (deadlineOf v n xn) (.leadDeadline y.sheet)
    let runs (t : State) : Prop := runsDelivering (.debouncePointReached st) s (edgeTaken st true s).points t
    let with_ (z : Track) (ps : List Point) : State := { withTable (before ++ z :: after) s₁ with points := ps }
    let onward_ (z : Track) (n : Station) (ps : List Point) : State :=
      with_ (expecting v n (onward v st n q) z) (ps ++ [leadPoint n (onward v st n q)])
    let jams (cause : StopCause) (t : State) : Prop := runs (afterStop .jam
      { cause := cause, station := some st, named := some { tag := y.tag, sheet := y.sheet }
        deviation := some (travelDiff q x) } true t)
    let decidedOn (z : Track) (d : Diverter) (t : State) : State := { t with
      tracker := { table := before ++ { z with dest := decided p y } :: after, diverter := d
                   line := linePosition (decided p y) }
      sched := { s.sched with reservation := reservedAfter p y s.sched.reservation } }
    (st = sourceExit y.source →
        let t := onward_ { gone with state := .approaching } .reg leadLeft
        ((∃ o ∈ before ++ after, o.source = y.source ∧ o.state = .feeding ∧ o.expected.isSome = true) → runs t)
        ∧ ((∀ o ∈ before ++ after, ¬(o.source = y.source ∧ o.state = .feeding ∧ o.expected.isSome = true)) →
            runs { t with sched := { s.sched with clutches := setClutch y.source false s.sched.clutches } }))
      ∧ (st = .reg →
        ((∀ o ∈ before ++ after, o.state ≠ .staged) → runs (with_ { expectingNone gone with state := .staged } leadLeft))
        ∧ ((∃ o ∈ before ++ after, o.state = .staged) → jams .overlap (with_ (expectingNone gone) leadLeft)))
      ∧ (st = .xfr → runs (onward_ trailed .fus pended))
      ∧ (st = .fus →
        let t := onward_ trailed .div pended
        (s.tracker.diverter = .free →
          runs (decidedOn (expecting v .div (onward v st .div q) trailed) (.set y.sheet) t))
        ∧ (s.tracker.diverter ≠ .free → runs t))
      ∧ (st = .div →
        let next : Destination → Station := fun d => match d with | .out => .out | .prg => .prg | _ => .dxe
        let xn : Destination → Pos := fun d => match d with
          | .dxe => s.counters.duplex.position + BitVec.ofNat 20 v[stationId .div].aux
          | _ => onward v st (next d) q
        let bound (d : Destination) : Track := expecting v (next d) (xn d) trailed
        let t (d : Destination) : State := with_ (bound d) (pended ++ [leadPoint (next d) (xn d)])
        (∀ d, s.tracker.diverter = .set y.sheet → y.dest = d → d ≠ .undecided →
          runs { t d with tracker := { (t d).tracker with diverter := .busy y.sheet } })
        ∧ (s.tracker.diverter = .free → y.dest = .undecided →
            runs (decidedOn (bound (decided p y)) (.busy y.sheet) (t (decided p y))))
        ∧ (∀ id, s.tracker.diverter = .busy id ∨ (s.tracker.diverter = .set id ∧ id ≠ y.sheet) →
            jams .overlap (with_ trailed pended)))
      ∧ (st = .out →
        let t := with_ (expectingNone trailed) pended
        let accepted : Prop := (s.collator.mode = .empty ∧ y.sheet.seq = 1)
          ∨ (s.collator.mode = .collecting ∧ s.collator.held = some { set := y.sheet.set, attempt := y.sheet.attempt }
              ∧ y.sheet.seq = s.collator.list.length + 1)
        (accepted → runs t) ∧ (¬accepted → jams .collatorOverrun t))
      ∧ (st = .prg → runs (with_ (expectingNone trailed) pended))
      ∧ (st = .dxe → runs (onward_ trailed .inv pended))
      ∧ (st = .inv → runs (onward_ gone .dxs leadLeft))
      ∧ (st = .dxs → runs { with_ { expectingNone gone with state := .shelved }
          (pointsBut (fun e => decide (e = .settle y.sheet)) leadLeft
            ++ [pointAt s .duplex (q + BitVec.ofNat 20 (m.length + v[stationId .dxs].aux)) (.settle y.sheet)]) with
            shelf := s.shelf ++ [{ sheet := y.sheet, settled := false }] })

/-- R55, R94, R95, R106, R123, R125 to R127: the trail at OUT of a one-sheet SEALED set, its length within tolerance: the
sheet leaves the table for the collected list, its reference is released, and the push is issued with the run's collator
timeout. And a trail at every lead-and-trail station, whatever other sheets are in the path, in RUNNING and HALTING: it is
measured, the first measurement kept, and a sheet out of tolerance is flagged LENGTH and its set spoiled, in STRICT with its
cascade, a COLLECTING collator that holds a set withdrawn dumping it at once or waiting for the last sheet bound for OUT (R44,
R46, R47, R95, R97, R128). At DIV it also frees a BUSY diverter, and the earliest waiting sheet is decided (R99, R100, R102);
at PRG the sheet leaves the path, and with its last sheet a SPOILED set drains (R49, R50, R107); at OUT the collator takes it:
COLLECTING, PUSHING at the whole set's last sheet, and where its set is withdrawn COLLECTING still while another sheet of it
is bound for OUT, DUMPING at the last (R106, R125, R126, R128). The halt test of a removal comes behind the whole step by the
model's reading (log 12, DEDUCED). The retry of a held record that a step calls for is the next command (R39, R135; log 11).
-/
def Obligations.TrailAtOutHandsTheSheetToTheCollator : Prop :=
  (∀ (s : State) (e : PendingEdge) (y : Track) (w : TrailPending) (m : MediaEntry) (p : RunParams)
      (v : Vector StationEntry 14) (r : SetEntry),
      s.path.state = .running → s.tables.station = some v → s.path.params = some p →
      (bankEntries s.tables y.gen)[y.media] = some m → pointReached (.debounce .out) s →
      (s.stations[stationId .out]).edge = some e → e.blocked = false → (s.stations[stationId .out]).level = true →
      s.tracker.table = [y] → y.trail = some w → w.station = .out → y.sheet.seq = 1 → y.last = true →
      (travelDiff (e.raw + BitVec.ofInt 20 v[stationId .out].latency) w.lead - (m.length : Int)).natAbs ≤ m.tolerance →
      s.collator.mode = .empty → s.collator.list = [] → s.collator.push = false → s.collator.dump = false →
      findSet y.sheet.set s.registry = some r → r.state = .sealed → r.attempt = y.sheet.attempt →
      ∃ t, exec (.debouncePointReached .out) s = .next t
        ∧ t.tracker = { s.tracker with table := [] }
        ∧ t.collator = { mode := .pushing, held := some { set := y.sheet.set, attempt := y.sheet.attempt }
                         list := [{ tag := y.tag, sheet := y.sheet, last := true }]
                         timer := some { elapsed := 0, timeout := p.timeout }, push := true, dump := false }
        ∧ findSet y.sheet.set t.registry = some { r with state := .delivering, collected := r.collected + 1 }
        ∧ t.tables = releaseRef y.gen s.tables ∧ t.path = s.path ∧ t.report = s.report ∧ t.sched = s.sched
        ∧ t.orders = s.orders ∧ t.shelf = s.shelf ∧ t.counters = s.counters)
    ∧ ∀ (s : State) (st : Station) (raw : Pos) (y : Track) (w : TrailPending) (before after : List Track)
        (v : Vector StationEntry 14) (m : MediaEntry) (p : RunParams),
      trailMatched st raw y w before after v s → (bankEntries s.tables y.gen)[y.media] = some m → s.path.params = some p →
      let length := travelDiff (confirmedAt v st raw) w.lead
      let fits : Prop := (length - (m.length : Int)).natAbs ≤ m.tolerance ∨ y.spoiled.isSome = true
      let measured : Track := { y with trail := none, measured := some (y.measured.getD length) }
      let s₁ : State := { edgeTaken st false s with
        points := pointsBut (fun e => decide (e = .trailDeadline y.sheet)) (edgeTaken st false s).points }
      let command : Instr := .debouncePointReached st
      let runs (t : State) : Prop := exec command s = .next (retried s t)
      let others := before ++ after
      let sameSet (o : Track) : Prop := o.sheet.set = y.sheet.set
      let judged (t : State) : Prop :=
        (fits ∧ t = withTable (before ++ measured :: after) s₁)
          ∨ (¬fits ∧ (∀ r ∈ s.registry, r.set = y.sheet.set → ¬canSpoil r)
              ∧ t = withTable (before ++ { measured with spoiled := some .length } :: after) s₁)
          ∨ (¬fits ∧ reportRoom 1 s ∧ ∃ old young e, e.set = y.sheet.set ∧ spoilStands p old e young s
              ∧ t = afterSpoil .length p old e young (withTable (before ++ measured :: after) s₁))
      (moving s → st = .xfr ∨ st = .fus ∨ st = .dxe → ∀ t, judged t → runs t)
        ∧ (moving s → st = .div → ∀ t, judged t →
            let freed : State := { t with tracker := { t.tracker with
              diverter := match t.tracker.diverter with | .busy _ => .free | d => d } }
            let waits (o : Track) : Prop := o.next = some .div ∧ o.dest = .undecided
            ((∀ id, s.tracker.diverter ≠ .busy id) ∨ (∀ o ∈ t.tracker.table, ¬waits o) → runs freed)
            ∧ (∀ (id : SheetId) (front back : List Track) (u : Track) (x : Pos), s.tracker.diverter = .busy id →
                t.tracker.table = front ++ u :: back → waits u → u.expected = some x →
                (∀ o ∈ front ++ back, o.sheet ≠ u.sheet) →
                (∀ o ∈ front, waits o → ∃ x', o.expected = some x' ∧ 0 < travelDiff x' x) →
                (∀ o ∈ back, waits o → ∃ x', o.expected = some x' ∧ 0 ≤ travelDiff x' x) →
                runs { t with
                  tracker := { table := front ++ { u with dest := decided p u } :: back, diverter := .set u.sheet
                               line := linePosition (decided p u) }
                  sched := { t.sched with reservation := reservedAfter p u t.sched.reservation } }))
        ∧ (moving s → st = .prg → fits → reportRoom 4 s →
            let left : State := { withTable others s₁ with tables := releaseRef y.gen s.tables }
            ((∀ r ∈ s.registry, r.set = y.sheet.set → r.state ≠ .spoiled ∨ r.drained = true) ∨ (∃ o ∈ others, sameSet o) →
                runsTo command s left)
            ∧ ∀ r, p.policy = .relaxed → findSet y.sheet.set s.registry = some r → r.state = .spoiled → r.drained = false →
              (∀ o ∈ others, ¬sameSet o) → (∀ o ∈ s.shelf, o.sheet.set ≠ y.sheet.set) → s.collator.mode = .empty →
              (s.registry.map (fun r => r.set)).Nodup →
              runsTo command s { left with
                registry := s.registry.map (fun o => if o.set = y.sheet.set then resolvedEntry o else o)
                report := afterResolution r s.report })
        ∧ (moving s → st = .out →
            s.collator.mode = .empty ∨ (s.collator.mode = .collecting
              ∧ s.collator.held = some { set := y.sheet.set, attempt := y.sheet.attempt }) →
            (s.registry.map (fun r => r.set)).Nodup → fits ∨ y.dest = .out → ∀ t, judged t →
            ∀ r, findSet y.sheet.set t.registry = some r →
            let rest := t.tracker.table.filter (fun o => decide (o.sheet ≠ y.sheet))
            let held : Option HeldSet := some { set := y.sheet.set, attempt := y.sheet.attempt }
            let list := s.collator.list ++ [{ tag := y.tag, sheet := y.sheet, last := y.last }]
            let handed (c : Collator) (state : SetState) : State := { withTable rest t with
              tables := releaseRef y.gen t.tables
              collator := c
              registry := t.registry.map (fun o =>
                if o.set = y.sheet.set then { o with collected := o.collected + 1, state := state } else o) }
            let started : Option CollatorTimer := some { elapsed := 0, timeout := p.timeout }
            let withdrawn : Prop := r.state = .spoiled ∨ r.state = .failed ∨ r.state = .awaitingReprint
            let boundToo : Prop :=
              ∃ o ∈ others, o.sheet.set = y.sheet.set ∧ o.sheet.attempt = y.sheet.attempt ∧ o.dest = .out
            ((y.last = false ∧ canSpoil r) ∨ (withdrawn ∧ boundToo) →
                runs (handed { s.collator with mode := .collecting, held := held, list := list } r.state))
            ∧ (y.last = true → r.state = .sealed → r.attempt = y.sheet.attempt →
                s.collator.list.map (fun c => c.sheet) = (List.range s.collator.list.length).map
                  (fun i => { set := y.sheet.set, attempt := y.sheet.attempt, seq := i + 1 }) →
                y.sheet.seq = s.collator.list.length + 1 →
                runs (handed { s.collator with
                  mode := .pushing, push := true, held := held, list := list, timer := started } .delivering))
            ∧ (withdrawn → ¬boundToo →
                runs (handed { s.collator with
                  mode := .dumping, dump := true, held := held, list := list, timer := started } r.state)))

/-! ## Belt -/

/-- R62 to R66: a seam mark on an UNSYNCED belt is ignored while the drives stand, and synchronises while the path is RUNNING
or HALTING; on a SYNCED belt it re-bases within the tolerance and slips outside it. Where the seam offset is 0, pitch 0's
commit event is reached at once, and takes place inside the mark's step by the model's reading (log 26, DEDUCED). The seam
watch point reached while SYNCED is a slip with no deviation. The retry of a held record that a step calls for is the next
command (R39, R135; log 11). -/
def Obligations.SeamMarkSynchronisesOrSlips : Prop :=
  (∀ (s : State) (l : DrawerLines) (b : BeltEntry), s.tables.belt = some b → b.seamOffset ≤ 12000 →
    b.revolution ≤ 250000 → b.seamTolerance ≤ 511 → 20000 ≤ b.revolution →
    let s₁ : State := { s with inputs := { s.inputs with drawers := l } }
    let p := s.counters.belt.position
    let taken : State := { s₁ with
      sched := { s.sched with seam := some p, nextPitch := 0 }
      points := pointsBut isBeltPoint s.points
        ++ [⟨.belt, p + BitVec.ofNat 20 (b.revolution + b.seamTolerance), .seamWatch, false⟩,
            ⟨.belt, p + BitVec.ofNat 20 b.seamOffset, .pitch, decide (b.seamOffset = 0)⟩] }
    let takes : Prop :=
      (0 < b.seamOffset → exec (.seamMark l) s = .next taken)
        ∧ (b.seamOffset = 0 → exec (.seamMark l) s = exec (.pitchCommitEvent l) taken)
    (s.sched.seam = none → s.path.state ≠ .running → s.path.state ≠ .halting → exec (.seamMark l) s = .next s₁)
      ∧ (s.sched.seam = none → moving s → takes)
      ∧ ∀ r, s.sched.seam = some r →
        let d := travelDiff p (r + BitVec.ofNat 20 b.revolution)
        ((d.natAbs ≤ b.seamTolerance → takes)
        ∧ (b.seamTolerance < d.natAbs → s.path.state ≠ .stopped → reportRoom 3 s →
            exec (.seamMark l) s = .next (retried s (afterStop .beltSlip
              { cause := .beltSlip, station := none, named := none, deviation := some d } true s₁)))))
    ∧ ∀ s : State, pointReached .seamWatch s → s.sched.seam.isSome = true → s.path.state ≠ .stopped → reportRoom 3 s →
        exec .seamWatchPoint s = .next (retried s (afterStop .beltSlip
          { cause := .beltSlip, station := none, named := none, deviation := none } true
          { s with points := pointsBut (fun q => decide (q = .seamWatch)) s.points }))

/-- R66, R67, R70, R174, R177: a BLANK pitch commit event: with nothing on the shelf and no order; with the head of the queue
kept back by its drawer alone, which latches DRAWER_EMPTY; with a refeed or a new feed kept back by the report queue alone,
which latches REPORT_BACKLOG; and with drawer and report queue both against it, which latches neither. The blank count and the
set-gap counters change, no message is sent, and the scheduler moves on to the next boundary. In HALTING a head whose set has
no committed sheet is kept back by that condition too (R69). -/
def Obligations.BlankPitchPassesEmpty : Prop :=
  ∀ (s : State) (l : DrawerLines) (b : BeltEntry) (seam : Pos),
    pointReached .pitch s → moving s → s.sched.seam = some seam → s.tables.belt = some b →
    let rest := pointsBut (fun q => decide (q = .pitch)) s.points
    let sched : Scheduler := { s.sched with
      gap1 := s.sched.gap1 - 1, gap2 := s.sched.gap2 - 1, blanks := min 65535 (s.sched.blanks + 1) }
    let k := s.sched.nextPitch
    let x := seam + BitVec.ofNat 20 (b.seamOffset + (k + 1) * b.pitchLength)
    let blank (u : ReportUnit) : Prop :=
      (k + 1 < b.pitches → runsDelivering (.pitchCommitEvent l) s rest { s with
        inputs := { s.inputs with drawers := l }
        sched := { sched with nextPitch := k + 1 }
        points := rest ++ [⟨.belt, x, .pitch, passed s.counters.belt.position x⟩]
        report := u })
      ∧ (b.pitches ≤ k + 1 → exec (.pitchCommitEvent l) s = .next { s with
          inputs := { s.inputs with drawers := l }
          sched := { sched with nextPitch := 0 }
          points := rest
          report := u })
    (s.orders = [] → s.shelf = [] → blank s.report)
      ∧ ∀ (p : RunParams) (o : Order) (os : List Order) (m : MediaEntry),
        s.path.params = some p → s.orders = o :: os → (bankEntries s.tables o.gen)[o.media] = some m →
        let room : Prop := s.report.queue.length < 48
        let dry : Prop := drawerEmpty l m.drawer = true
        (room → ¬refeedable p s → ¬feedable p o s → blank s.report)
          ∧ (room → ¬refeedable p s → feedable p o s → dry → blank (afterLatching .drawerEmpty s.report))
          ∧ (¬room → reportRoom 1 s → refeedable p s ∨ (feedable p o s ∧ ¬dry) → blank (afterLatching .reportBacklog s.report))
          ∧ (¬room → ¬refeedable p s → ¬(feedable p o s ∧ ¬dry) → blank s.report)

/-- R67 to R69, R71, R72, R74, R80, R113: in either mode, the path RUNNING, or HALTING with a committed sheet of the order's
set, a pitch committed to the head of the order queue, no shelf refeed before it: the order becomes a tracking entry and a
ring entry, an IMAGE WRITE is sent and the feed start placed. In DUPLEX the reservation count rises by 1; in SIMPLEX it stays,
and after a sheet with LAST the pass-1 set gap is loaded. The retry of a held record that a step calls for is the next command
(R39, R135; log 11). -/
def Obligations.NewFeedIsCommitted : Prop :=
  ∀ (s : State) (l : DrawerLines) (b : BeltEntry) (seam : Pos) (p : RunParams) (o : Order) (os : List Order)
    (m : MediaEntry) (v : Vector StationEntry 14),
    pointReached .pitch s → moving s → s.sched.seam = some seam → s.tables.belt = some b →
    s.tables.station = some v → s.path.params = some p → s.orders = o :: os → ¬refeedable p s → feedable p o s →
    (bankEntries s.tables o.gen)[o.media] = some m → drawerEmpty l m.drawer = false → s.report.queue.length < 48 →
    ∃ t, exec (.pitchCommitEvent l) s = .next t
      ∧ t.orders = os
      ∧ t.registry = s.registry.map (fun e => if e.set = o.sheet.set then { e with committed := e.committed + 1 } else e)
      ∧ t.tracker = { s.tracker with table := s.tracker.table ++ [{
          tag := o.tag, sheet := o.sheet, last := o.last, media := o.media, gen := o.gen, source := .drawer m.drawer
          pass := .first, side2 := o.side2, state := .feeding, next := some (sourceExit (.drawer m.drawer))
          expected := none, leadDeadline := none, trimStart := none, released := none, trail := none
          measured := none, spoiled := none, dest := .undecided, lastPassed := none }] }
      ∧ t.sched.ring = s.sched.ring ++ [{
          pitch := s.sched.nextPitch, tag := o.tag, sheet := o.sheet, handle := some o.side1
          release := s.counters.belt.position + BitVec.ofNat 20 b.writeToRelease }]
      ∧ t.sched.gap1 = (if p.mode = .simplex ∧ o.last = true then p.setGap else s.sched.gap1 - 1)
      ∧ t.sched.gap2 = s.sched.gap2 - 1
      ∧ t.sched.reservation = (if p.mode = .duplex then s.sched.reservation + 1 else s.sched.reservation)
      ∧ t.sched.blanks = s.sched.blanks
      ∧ t.imager.out = s.imager.out ++ [imageWriteFrame s.sched.nextPitch o.side1]
      ∧ (∃ q ∈ t.points, q.event = .feedStart o.sheet ∧ q.segment = .main
          ∧ q.position = s.counters.main.position + BitVec.ofInt 20 ((b.writeToRelease : Int)
              - (((v[stationId (sourceExit (.drawer m.drawer))].aux : Int)
                  + ((v[stationId .reg].position : Int)
                    - (v[stationId (sourceExit (.drawer m.drawer))].position : Int)))) - (b.stagingMargin : Int)))
      ∧ eventsQueued (pointsBut (fun q => decide (q = .pitch)) s.points) s t
      ∧ t.tables = s.tables ∧ t.report = s.report ∧ t.path = s.path ∧ t.collator = s.collator ∧ t.shelf = s.shelf
      ∧ t.counters = s.counters ∧ t.stations = s.stations ∧ t.intake = s.intake

/-- R67, R68, R73, R113, R116: in DUPLEX, a settled shelf head takes the pitch before the queue's head: it leaves the
shelf, its reservation is given back, its tracking entry is reshaped for pass 2, and its feed start is placed. -/
def Obligations.ShelfRefeedIsCommittedFirst : Prop :=
  ∀ (s : State) (l : DrawerLines) (b : BeltEntry) (seam : Pos) (p : RunParams) (h : ShelfEntry) (hs : List ShelfEntry)
    (e : Track),
    pointReached .pitch s → s.path.state = .running ∨ s.path.state = .halting → s.sched.seam = some seam →
    s.tables.belt = some b → s.path.params = some p → p.mode = .duplex → s.shelf = h :: hs → h.settled = true →
    findTrack h.sheet s.tracker.table = some e → s.sched.gap2 = 0 → s.report.queue.length < 48 →
    ∃ t, exec (.pitchCommitEvent l) s = .next t
      ∧ t.shelf = hs ∧ t.orders = s.orders ∧ t.registry = s.registry
      ∧ t.sched.reservation = s.sched.reservation - 1 ∧ t.sched.gap2 = (if e.last then p.setGap else 0)
      ∧ t.sched.ring = s.sched.ring ++ [{
          pitch := s.sched.nextPitch, tag := e.tag, sheet := h.sheet, handle := e.side2
          release := s.counters.belt.position + BitVec.ofNat 20 b.writeToRelease }]
      ∧ t.tracker = { s.tracker with table := s.tracker.table.map (fun y => if y.sheet = h.sheet then
          { y with pass := .second, source := .shelf, state := .feeding, dest := .undecided, next := some .shx
                   expected := none, leadDeadline := none } else y) }
      ∧ t.imager.out = s.imager.out
          ++ (match e.side2 with | some x => [imageWriteFrame s.sched.nextPitch x] | none => [])
      ∧ (∀ v : Vector StationEntry 14, s.tables.station = some v →
          ∃ q ∈ t.points, q.event = .feedStart h.sheet ∧ q.segment = .main
            ∧ q.position = s.counters.main.position + BitVec.ofInt 20 ((b.writeToRelease : Int)
                - ((v[stationId .shx].aux : Int)
                    + ((v[stationId .reg].position : Int) - (v[stationId .shx].position : Int))) - (b.stagingMargin : Int))
            ∧ q.reached = passed s.counters.main.position q.position)
      ∧ eventsQueued (pointsBut (fun q => decide (q = .pitch)) s.points) s t
      ∧ t.tables = s.tables ∧ t.report = s.report ∧ t.path = s.path ∧ t.collator = s.collator

/-- R75, R76, R86, R87: a feed start reached, whatever other points are placed, engages the source's clutch and gives the
entry its expected lead and deadline at the source exit; in STOPPED it does nothing, and the point is gone. -/
def Obligations.FeedStartEngagesTheClutch : Prop :=
  ∀ (s : State) (id : SheetId) (q : Point) (before after : List Point), s.points = before ++ q :: after →
    q.event = .feedStart id → q.reached = true → (∀ r ∈ before, ¬(r.event = .feedStart id ∧ r.reached = true)) →
    let left := pointsBut (fun e => decide (e = .feedStart id)) s.points
    (s.path.state = .stopped → exec (.feedStart id) s = .next { s with points := left })
      ∧ ∀ (e : Track) (v : Vector StationEntry 14), moving s →
        findTrack id s.tracker.table = some e → s.tables.station = some v →
        let exit := sourceExit e.source
        let x := q.position + BitVec.ofNat 20 v[stationId exit].aux
        runsDelivering (.feedStart id) s left { s with
          sched := { s.sched with clutches := setClutch e.source true s.sched.clutches }
          tracker := { s.tracker with table := s.tracker.table.map (fun y => if y.sheet = id then
            expecting v exit x y else y) }
          points := pointsBut (fun e => decide (e = .leadDeadline id)) left
            ++ [pointAt s (stationSegment exit) (deadlineOf v exit x) (.leadDeadline id)] }

/-- R78, R79, R108: the release of a STAGED head opens the gate, places the gate close point and sends the sheet on toward
XFR, with its lead deadline X + w + H there (R86, R87); a head that is not STAGED jams LEAD_OVERDUE at REG. In STOPPED the
release point is gone and nothing else happens. The retry of a held record that a step calls for is the next command (R39,
R135; log 11). -/
def Obligations.ReleaseOpensTheGateOrJams : Prop :=
  (∀ (s : State) (r : RingEntry) (rs : List RingEntry),
    pointReached .release s → s.path.state = .running → s.sched.ring = r :: rs →
    let left := pointsBut (fun q => decide (q = .release)) s.points
    (∀ (e : Track) (m : MediaEntry) (b : BeltEntry) (v : Vector StationEntry 14),
        findTrack r.sheet s.tracker.table = some e → e.state = .staged →
        (bankEntries s.tables e.gen)[e.media] = some m → s.tables.belt = some b → s.tables.station = some v →
        ∃ t, exec .release s = .next t
          ∧ t.sched = { s.sched with ring := rs, gateOpen := true }
          ∧ (∃ q ∈ t.points, q.event = .gateClose ∧ q.segment = .main
              ∧ q.position = s.counters.main.position + BitVec.ofNat 20 (m.length + b.clearance / 2))
          ∧ (∀ r', rs.head? = some r' → ∃ q ∈ t.points, q.event = .release ∧ q.segment = .belt ∧ q.position = r'.release)
          ∧ findTrack r.sheet t.tracker.table = some { e with
              state := .moving, released := some s.counters.main.position, next := some .xfr
              expected := some (s.counters.main.position + BitVec.ofInt 20
                ((v[stationId .xfr].position : Int) - (v[stationId .reg].position : Int)))
              leadDeadline := some (deadlineOf v .xfr (s.counters.main.position + BitVec.ofInt 20
                ((v[stationId .xfr].position : Int) - (v[stationId .reg].position : Int)))) }
          ∧ (∃ q ∈ t.points, q.event = .leadDeadline r.sheet ∧ q.segment = .main
              ∧ q.position = deadlineOf v .xfr (s.counters.main.position + BitVec.ofInt 20
                ((v[stationId .xfr].position : Int) - (v[stationId .reg].position : Int)))
              ∧ q.reached = passed s.counters.main.position q.position)
          ∧ eventsQueued left s t
          ∧ t.path = s.path ∧ t.report = s.report ∧ t.registry = s.registry ∧ t.orders = s.orders ∧ t.shelf = s.shelf)
      ∧ ((∀ e, findTrack r.sheet s.tracker.table = some e → e.state ≠ .staged) → reportRoom 3 s →
          exec .release s = .next (retried s (afterStop .jam
            { cause := .leadOverdue, station := some .reg, named := some { tag := r.tag, sheet := r.sheet }
              deviation := none } true { s with points := left }))))
    ∧ ∀ s : State, pointReached .release s → s.path.state = .stopped →
        exec .release s = .next { s with points := pointsBut (fun q => decide (q = .release)) s.points }

/-- R79, R115: the gate close point closes the gate, and a settle point sets its entry's flag, in every path state. -/
def Obligations.GateClosesAndSheetsSettle : Prop :=
  ∀ s : State,
    (pointReached .gateClose s → exec .gateClosePoint s = .next { s with
        sched := { s.sched with gateOpen := false }
        points := pointsBut (fun q => decide (q = .gateClose)) s.points })
      ∧ ∀ id, pointReached (.settle id) s → exec (.settlePoint id) s = .next { s with
          shelf := s.shelf.map (fun e => if e.sheet = id then { e with settled := true } else e)
          points := pointsBut (fun q => decide (q = .settle id)) s.points }

/-! ## Deadlines, stop lines and the collator -/

/-- R85, R88, R96, R108: a lead or trail deadline reached while the path is RUNNING or HALTING jams LEAD_OVERDUE or
TRAIL_OVERDUE, naming the entry with no deviation; in STOPPED it does nothing. The retry of a held record that a step calls
for is the next command (R39, R135; log 11). -/
def Obligations.DeadlinesJam : Prop :=
  ∀ (s : State) (id : SheetId) (e : Track), findTrack id s.tracker.table = some e → reportRoom 3 s →
    let named : Option NamedSheet := some { tag := e.tag, sheet := e.sheet }
    let leadGone : State := { s with points := pointsBut (fun q => decide (q = .leadDeadline id)) s.points }
    let trailGone : State := { s with points := pointsBut (fun q => decide (q = .trailDeadline id)) s.points }
    (pointReached (.leadDeadline id) s →
        (∀ st, s.path.state = .running ∨ s.path.state = .halting → e.next = some st →
          exec (.leadDeadline id) s = .next (retried s (afterStop .jam
            { cause := .leadOverdue, station := some st, named := named, deviation := none } true leadGone)))
        ∧ (s.path.state = .stopped → exec (.leadDeadline id) s = .next leadGone))
      ∧ (pointReached (.trailDeadline id) s →
        (∀ w, s.path.state = .running ∨ s.path.state = .halting → e.trail = some w →
          exec (.trailDeadline id) s = .next (retried s (afterStop .jam
            { cause := .trailOverdue, station := some w.station, named := named, deviation := none } true trailGone)))
        ∧ (s.path.state = .stopped → exec (.trailDeadline id) s = .next trailGone))

/-- R144, R146: a panel, upstream or collator stop line becoming active latches EXTERNAL_STOP in every path state and stops a
RUNNING or HALTING path; becoming inactive it changes its own membership alone. A stop line is asserted unless its level is
low, an open circuit among the rest (R183). The retry of a held record that a step calls for is the next command (R39, R135;
log 11). -/
def Obligations.StopLinesStopThePath : Prop :=
  (∀ (l : StopLine) (w : Wire), asserted (.stop l) w = true ↔ w ≠ .low)
    ∧ ∀ s : State,
    let on (l : StopLine) (a : Bool) : PathControl := match l with
      | .upstream => { s.path with stopUpstream := a }
      | .collator => { s.path with stopCollator := a }
      | .panel => { s.path with stopPanel := a }
    let active (l : StopLine) : Bool := match l with
      | .upstream => s.path.stopUpstream | .collator => s.path.stopCollator | .panel => s.path.stopPanel
    ∀ l : StopLine,
      exec (.stopLineReleased l) s = .next { s with path := on l false }
        ∧ (active l = true → exec (.stopLineAsserted l) s = .next s)
        ∧ (active l = false → reportRoom 3 s →
            (s.path.state = .running ∨ s.path.state = .halting → exec (.stopLineAsserted l) s
              = .next (retried s (afterStop .externalStop
                  { cause := .externalStop, station := none, named := none, deviation := none } false
                  { s with path := on l true })))
            ∧ (s.path.state ≠ .running → s.path.state ≠ .halting → exec (.stopLineAsserted l) s
              = .next { s with path := on l true, report := afterLatching .externalStop s.report }))

/-- R47, R49 to R52, R56, R59, R129, R141: the done line ends a push: SET DONE DELIVERED is queued and the entry removed; it
ends a dump: the dumped set, SPOILED, waits while a sheet of it is in the path and is otherwise resolved, with its REPRINT, or
with SET DONE FAILED where it is failing. In STRICT the resolution waits behind an older SPOILED set, and the leaving of
SPOILED, or the delivery of a set that was spoiled while pushed, resolves the held sets after it, up to the first that has not
drained. The done line is ignored in EMPTY, COLLECTING and FAULTED. In HALTING the halt test follows, once and on the step's
whole outcome, so that its ALERT and PATH report stand behind SET DONE and the walk's REPRINTs: the model's reading (log 12,
DEDUCED). That SET DONE takes the attempt the collator holds, where R59 names the entry's, is the model's reading too (log 27,
DEDUCED). The retry of a held record that a step calls for is the next command (R39, R135; log 11). -/
def Obligations.DoneEndsThePushOrDump : Prop :=
  ∀ s : State,
    let emptied : Collator := { mode := .empty, held := none, list := [], timer := none, push := false, dump := false }
    let ends (t : State) : Prop := runsTo .collatorDone s t
    (s.collator.mode = .empty ∨ s.collator.mode = .collecting ∨ s.collator.mode = .faulted →
        exec .collatorDone s = .next s)
      ∧ ∀ (h : HeldSet) (e : SetEntry) (p : RunParams) (old young : List SetEntry), s.collator.held = some h →
        s.path.params = some p → s.registry = old ++ e :: young → e.set = h.set →
        (s.registry.map (fun x => x.set)).Nodup → reportRoom (2 * young.length + 6) s →
        let delivered := withReports [.setDone h.set h.attempt .delivered e.collected] s.report
        let absent : Prop := (∀ y ∈ s.tracker.table, y.sheet.set ≠ h.set) ∧ ∀ y ∈ s.shelf, y.sheet.set ≠ h.set
        let first : Prop := ∀ o ∈ old, o.state ≠ .spoiled
        let walk (u : ReportUnit) : ReportUnit := (walkedSets young).foldl (fun u y => afterResolution y u) u
        (s.collator.mode = .pushing →
          (e.state = .delivering ∨ p.policy = .relaxed →
            ends { s with collator := emptied, registry := old ++ young, report := delivered })
          ∧ (e.state = .spoiled → p.policy = .strict → first →
              ends { s with collator := emptied, registry := old ++ afterWalk young, report := walk delivered }))
        ∧ (s.collator.mode = .dumping → e.state = .spoiled → ¬absent → ends { s with collator := emptied })
        ∧ (s.collator.mode = .dumping → e.state = .spoiled → e.drained = false → absent →
          (p.policy = .relaxed → ends { s with
            collator := emptied, registry := old ++ resolvedEntry e :: young, report := afterResolution e s.report })
          ∧ (p.policy = .strict → first → ends { s with
              collator := emptied
              registry := old ++ resolvedEntry e :: afterWalk young
              report := walk (afterResolution e s.report) })
          ∧ (p.policy = .strict → ¬first → e.failing = false → ends { s with
              collator := emptied, registry := old ++ { e with drained := true } :: young })
          ∧ (p.policy = .strict → ¬first → e.failing = true → (∀ y ∈ young, y.failing = false) → ends { s with
              collator := emptied
              registry := old ++ resolvedEntry e :: young
              report := afterResolution e s.report }))

/-- R127, R130, R145: the collator fault line, and the expiry of its timer during a push or dump, make the collator FAULTED,
latch COLLATOR_FAULT and raise the fault stop at OUT; a FAULTED collator is left as it is, and a stopped path keeps its stop.
A timer that reaches its timeout as milliseconds pass expires by itself, so that a done line comes too late. No timer, no
expiry. The fault line is asserted unless its level is low, an open circuit among the rest (R183). The clocks of an expiry are
logs 1 and 2. The retry of a held record that a step calls for is the next command (R39, R135; log 11). -/
def Obligations.CollatorFaultsStopThePath : Prop :=
  (∀ w : Wire, asserted .collatorFault w = true ↔ w ≠ .low)
    ∧ ∀ s : State, reportRoom 3 s →
      let working : Prop := s.collator.mode = .pushing ∨ s.collator.mode = .dumping
      (s.collator.mode = .faulted → exec .collatorFaultLine s = .next s)
        ∧ (s.collator.mode ≠ .faulted → exec .collatorFaultLine s = .next (retried s (afterCollatorFault s)))
        ∧ (¬working ∨ s.collator.timer = none → exec .collatorTimerExpiry s = .next s)
        ∧ ∀ w, s.collator.timer = some w → working →
          let lacks := w.timeout - w.elapsed
          exec .collatorTimerExpiry s = .next (retried s (afterCollatorFault (clocksAfter lacks s)))
            ∧ exec .collatorDone (afterCollatorFault (clocksAfter lacks s)) = .next (afterCollatorFault (clocksAfter lacks s))
            ∧ (lacks = 1 → s.pending = [] → step s = .next (retried s (afterCollatorFault (clocksAfter 1 s))))
            ∧ (s.path.silence + lacks ≤ 200 → ∃ t, exec .atRest s = .next t ∧ t.path.silence = 200
                ∧ t = retried s (clocksAfter (200 - s.path.silence - lacks) (afterCollatorFault (clocksAfter lacks s))))
end

