-- ==== Sys2Proof/Laws/State.lean ====
section
/-! SUPPORT. What each update of the state does, field by field: one lemma per field, true by unfolding. -/

namespace Sys2Proof.Machine

variable (s : State)

/-! ### sendReport -/

@[simp] theorem sendReport_pending (b : ReportBody) : (sendReport b s).pending = s.pending := rfl
@[simp] theorem sendReport_inputs (b : ReportBody) : (sendReport b s).inputs = s.inputs := rfl
@[simp] theorem sendReport_intake (b : ReportBody) : (sendReport b s).intake = s.intake := rfl
@[simp] theorem sendReport_orders (b : ReportBody) : (sendReport b s).orders = s.orders := rfl
@[simp] theorem sendReport_registry (b : ReportBody) : (sendReport b s).registry = s.registry := rfl
@[simp] theorem sendReport_tables (b : ReportBody) : (sendReport b s).tables = s.tables := rfl
@[simp] theorem sendReport_counters (b : ReportBody) : (sendReport b s).counters = s.counters := rfl
@[simp] theorem sendReport_stations (b : ReportBody) : (sendReport b s).stations = s.stations := rfl
@[simp] theorem sendReport_points (b : ReportBody) : (sendReport b s).points = s.points := rfl
@[simp] theorem sendReport_sched (b : ReportBody) : (sendReport b s).sched = s.sched := rfl
@[simp] theorem sendReport_tracker (b : ReportBody) : (sendReport b s).tracker = s.tracker := rfl
@[simp] theorem sendReport_shelf (b : ReportBody) : (sendReport b s).shelf = s.shelf := rfl
@[simp] theorem sendReport_collator (b : ReportBody) : (sendReport b s).collator = s.collator := rfl
@[simp] theorem sendReport_path (b : ReportBody) : (sendReport b s).path = s.path := rfl
@[simp] theorem sendReport_report (b : ReportBody) : (sendReport b s).report = enqueueReport b s.report := rfl
@[simp] theorem sendReport_imager (b : ReportBody) : (sendReport b s).imager = s.imager := rfl
@[simp] theorem sendReport_orderOut (b : ReportBody) : (sendReport b s).orderOut = s.orderOut := rfl

/-! ### latch -/

@[simp] theorem latch_pending (c : Condition) : (latch c s).pending = s.pending := rfl
@[simp] theorem latch_inputs (c : Condition) : (latch c s).inputs = s.inputs := rfl
@[simp] theorem latch_intake (c : Condition) : (latch c s).intake = s.intake := rfl
@[simp] theorem latch_orders (c : Condition) : (latch c s).orders = s.orders := rfl
@[simp] theorem latch_registry (c : Condition) : (latch c s).registry = s.registry := rfl
@[simp] theorem latch_tables (c : Condition) : (latch c s).tables = s.tables := rfl
@[simp] theorem latch_counters (c : Condition) : (latch c s).counters = s.counters := rfl
@[simp] theorem latch_stations (c : Condition) : (latch c s).stations = s.stations := rfl
@[simp] theorem latch_points (c : Condition) : (latch c s).points = s.points := rfl
@[simp] theorem latch_sched (c : Condition) : (latch c s).sched = s.sched := rfl
@[simp] theorem latch_tracker (c : Condition) : (latch c s).tracker = s.tracker := rfl
@[simp] theorem latch_shelf (c : Condition) : (latch c s).shelf = s.shelf := rfl
@[simp] theorem latch_collator (c : Condition) : (latch c s).collator = s.collator := rfl
@[simp] theorem latch_path (c : Condition) : (latch c s).path = s.path := rfl
@[simp] theorem latch_report (c : Condition) : (latch c s).report = latchCondition c s.report := rfl
@[simp] theorem latch_imager (c : Condition) : (latch c s).imager = s.imager := rfl
@[simp] theorem latch_orderOut (c : Condition) : (latch c s).orderOut = s.orderOut := rfl

/-! ### dropPoints -/

@[simp] theorem dropPoints_pending (p : PointEvent → Bool) : (dropPoints p s).pending = s.pending := rfl
@[simp] theorem dropPoints_inputs (p : PointEvent → Bool) : (dropPoints p s).inputs = s.inputs := rfl
@[simp] theorem dropPoints_intake (p : PointEvent → Bool) : (dropPoints p s).intake = s.intake := rfl
@[simp] theorem dropPoints_orders (p : PointEvent → Bool) : (dropPoints p s).orders = s.orders := rfl
@[simp] theorem dropPoints_registry (p : PointEvent → Bool) : (dropPoints p s).registry = s.registry := rfl
@[simp] theorem dropPoints_tables (p : PointEvent → Bool) : (dropPoints p s).tables = s.tables := rfl
@[simp] theorem dropPoints_counters (p : PointEvent → Bool) : (dropPoints p s).counters = s.counters := rfl
@[simp] theorem dropPoints_stations (p : PointEvent → Bool) : (dropPoints p s).stations = s.stations := rfl
@[simp] theorem dropPoints_points (p : PointEvent → Bool) : (dropPoints p s).points = s.points.filter (fun q => !p q.event) := rfl
@[simp] theorem dropPoints_sched (p : PointEvent → Bool) : (dropPoints p s).sched = s.sched := rfl
@[simp] theorem dropPoints_tracker (p : PointEvent → Bool) : (dropPoints p s).tracker = s.tracker := rfl
@[simp] theorem dropPoints_shelf (p : PointEvent → Bool) : (dropPoints p s).shelf = s.shelf := rfl
@[simp] theorem dropPoints_collator (p : PointEvent → Bool) : (dropPoints p s).collator = s.collator := rfl
@[simp] theorem dropPoints_path (p : PointEvent → Bool) : (dropPoints p s).path = s.path := rfl
@[simp] theorem dropPoints_report (p : PointEvent → Bool) : (dropPoints p s).report = s.report := rfl
@[simp] theorem dropPoints_imager (p : PointEvent → Bool) : (dropPoints p s).imager = s.imager := rfl
@[simp] theorem dropPoints_orderOut (p : PointEvent → Bool) : (dropPoints p s).orderOut = s.orderOut := rfl

/-! ### dropPoint -/

@[simp] theorem dropPoint_pending (e : PointEvent) : (dropPoint e s).pending = s.pending := rfl
@[simp] theorem dropPoint_inputs (e : PointEvent) : (dropPoint e s).inputs = s.inputs := rfl
@[simp] theorem dropPoint_intake (e : PointEvent) : (dropPoint e s).intake = s.intake := rfl
@[simp] theorem dropPoint_orders (e : PointEvent) : (dropPoint e s).orders = s.orders := rfl
@[simp] theorem dropPoint_registry (e : PointEvent) : (dropPoint e s).registry = s.registry := rfl
@[simp] theorem dropPoint_tables (e : PointEvent) : (dropPoint e s).tables = s.tables := rfl
@[simp] theorem dropPoint_counters (e : PointEvent) : (dropPoint e s).counters = s.counters := rfl
@[simp] theorem dropPoint_stations (e : PointEvent) : (dropPoint e s).stations = s.stations := rfl
@[simp] theorem dropPoint_points (e : PointEvent) : (dropPoint e s).points = s.points.filter (fun q => !decide (q.event = e)) := rfl
@[simp] theorem dropPoint_sched (e : PointEvent) : (dropPoint e s).sched = s.sched := rfl
@[simp] theorem dropPoint_tracker (e : PointEvent) : (dropPoint e s).tracker = s.tracker := rfl
@[simp] theorem dropPoint_shelf (e : PointEvent) : (dropPoint e s).shelf = s.shelf := rfl
@[simp] theorem dropPoint_collator (e : PointEvent) : (dropPoint e s).collator = s.collator := rfl
@[simp] theorem dropPoint_path (e : PointEvent) : (dropPoint e s).path = s.path := rfl
@[simp] theorem dropPoint_report (e : PointEvent) : (dropPoint e s).report = s.report := rfl
@[simp] theorem dropPoint_imager (e : PointEvent) : (dropPoint e s).imager = s.imager := rfl
@[simp] theorem dropPoint_orderOut (e : PointEvent) : (dropPoint e s).orderOut = s.orderOut := rfl

/-! ### placePoint -/

@[simp] theorem placePoint_pending (g : Segment) (x : Pos) (e : PointEvent) : (placePoint g x e s).pending = s.pending := rfl
@[simp] theorem placePoint_inputs (g : Segment) (x : Pos) (e : PointEvent) : (placePoint g x e s).inputs = s.inputs := rfl
@[simp] theorem placePoint_intake (g : Segment) (x : Pos) (e : PointEvent) : (placePoint g x e s).intake = s.intake := rfl
@[simp] theorem placePoint_orders (g : Segment) (x : Pos) (e : PointEvent) : (placePoint g x e s).orders = s.orders := rfl
@[simp] theorem placePoint_registry (g : Segment) (x : Pos) (e : PointEvent) : (placePoint g x e s).registry = s.registry := rfl
@[simp] theorem placePoint_tables (g : Segment) (x : Pos) (e : PointEvent) : (placePoint g x e s).tables = s.tables := rfl
@[simp] theorem placePoint_counters (g : Segment) (x : Pos) (e : PointEvent) : (placePoint g x e s).counters = s.counters := rfl
@[simp] theorem placePoint_stations (g : Segment) (x : Pos) (e : PointEvent) : (placePoint g x e s).stations = s.stations := rfl
@[simp] theorem placePoint_points (g : Segment) (x : Pos) (e : PointEvent) : (placePoint g x e s).points = s.points.filter (fun q => !decide (q.event = e)) ++ [⟨g, x, e, passed (segPos s g) x⟩] := rfl
@[simp] theorem placePoint_sched (g : Segment) (x : Pos) (e : PointEvent) : (placePoint g x e s).sched = s.sched := rfl
@[simp] theorem placePoint_tracker (g : Segment) (x : Pos) (e : PointEvent) : (placePoint g x e s).tracker = s.tracker := rfl
@[simp] theorem placePoint_shelf (g : Segment) (x : Pos) (e : PointEvent) : (placePoint g x e s).shelf = s.shelf := rfl
@[simp] theorem placePoint_collator (g : Segment) (x : Pos) (e : PointEvent) : (placePoint g x e s).collator = s.collator := rfl
@[simp] theorem placePoint_path (g : Segment) (x : Pos) (e : PointEvent) : (placePoint g x e s).path = s.path := rfl
@[simp] theorem placePoint_report (g : Segment) (x : Pos) (e : PointEvent) : (placePoint g x e s).report = s.report := rfl
@[simp] theorem placePoint_imager (g : Segment) (x : Pos) (e : PointEvent) : (placePoint g x e s).imager = s.imager := rfl
@[simp] theorem placePoint_orderOut (g : Segment) (x : Pos) (e : PointEvent) : (placePoint g x e s).orderOut = s.orderOut := rfl

/-! ### withPassages and readDrawers -/

@[simp] theorem withPassagesAmong_inputs (lines : List Instr) (f : State → State) :
    (withPassagesAmong lines f s).inputs = (f s).inputs := rfl
@[simp] theorem withPassagesAmong_intake (lines : List Instr) (f : State → State) :
    (withPassagesAmong lines f s).intake = (f s).intake := rfl
@[simp] theorem withPassagesAmong_orders (lines : List Instr) (f : State → State) :
    (withPassagesAmong lines f s).orders = (f s).orders := rfl
@[simp] theorem withPassagesAmong_registry (lines : List Instr) (f : State → State) :
    (withPassagesAmong lines f s).registry = (f s).registry := rfl
@[simp] theorem withPassagesAmong_tables (lines : List Instr) (f : State → State) :
    (withPassagesAmong lines f s).tables = (f s).tables := rfl
@[simp] theorem withPassagesAmong_counters (lines : List Instr) (f : State → State) :
    (withPassagesAmong lines f s).counters = (f s).counters := rfl
@[simp] theorem withPassagesAmong_stations (lines : List Instr) (f : State → State) :
    (withPassagesAmong lines f s).stations = (f s).stations := rfl
@[simp] theorem withPassagesAmong_points (lines : List Instr) (f : State → State) :
    (withPassagesAmong lines f s).points = (f s).points := rfl
@[simp] theorem withPassagesAmong_sched (lines : List Instr) (f : State → State) :
    (withPassagesAmong lines f s).sched = (f s).sched := rfl
@[simp] theorem withPassagesAmong_tracker (lines : List Instr) (f : State → State) :
    (withPassagesAmong lines f s).tracker = (f s).tracker := rfl
@[simp] theorem withPassagesAmong_shelf (lines : List Instr) (f : State → State) :
    (withPassagesAmong lines f s).shelf = (f s).shelf := rfl
@[simp] theorem withPassagesAmong_collator (lines : List Instr) (f : State → State) :
    (withPassagesAmong lines f s).collator = (f s).collator := rfl
@[simp] theorem withPassagesAmong_path (lines : List Instr) (f : State → State) :
    (withPassagesAmong lines f s).path = (f s).path := rfl
@[simp] theorem withPassagesAmong_report (lines : List Instr) (f : State → State) :
    (withPassagesAmong lines f s).report = (f s).report := rfl
@[simp] theorem withPassagesAmong_imager (lines : List Instr) (f : State → State) :
    (withPassagesAmong lines f s).imager = (f s).imager := rfl
@[simp] theorem withPassagesAmong_orderOut (lines : List Instr) (f : State → State) :
    (withPassagesAmong lines f s).orderOut = (f s).orderOut := rfl

@[simp] theorem withPassages_inputs (f : State → State) : (withPassages f s).inputs = (f s).inputs := rfl
@[simp] theorem withPassages_intake (f : State → State) : (withPassages f s).intake = (f s).intake := rfl
@[simp] theorem withPassages_orders (f : State → State) : (withPassages f s).orders = (f s).orders := rfl
@[simp] theorem withPassages_registry (f : State → State) : (withPassages f s).registry = (f s).registry := rfl
@[simp] theorem withPassages_tables (f : State → State) : (withPassages f s).tables = (f s).tables := rfl
@[simp] theorem withPassages_counters (f : State → State) : (withPassages f s).counters = (f s).counters := rfl
@[simp] theorem withPassages_stations (f : State → State) : (withPassages f s).stations = (f s).stations := rfl
@[simp] theorem withPassages_points (f : State → State) : (withPassages f s).points = (f s).points := rfl
@[simp] theorem withPassages_sched (f : State → State) : (withPassages f s).sched = (f s).sched := rfl
@[simp] theorem withPassages_tracker (f : State → State) : (withPassages f s).tracker = (f s).tracker := rfl
@[simp] theorem withPassages_shelf (f : State → State) : (withPassages f s).shelf = (f s).shelf := rfl
@[simp] theorem withPassages_collator (f : State → State) : (withPassages f s).collator = (f s).collator := rfl
@[simp] theorem withPassages_path (f : State → State) : (withPassages f s).path = (f s).path := rfl
@[simp] theorem withPassages_report (f : State → State) : (withPassages f s).report = (f s).report := rfl
@[simp] theorem withPassages_imager (f : State → State) : (withPassages f s).imager = (f s).imager := rfl
@[simp] theorem withPassages_orderOut (f : State → State) : (withPassages f s).orderOut = (f s).orderOut := rfl

@[simp] theorem readDrawers_pending (l : DrawerLines) : (readDrawers l s).pending = s.pending := rfl
@[simp] theorem readDrawers_intake (l : DrawerLines) : (readDrawers l s).intake = s.intake := rfl
@[simp] theorem readDrawers_orders (l : DrawerLines) : (readDrawers l s).orders = s.orders := rfl
@[simp] theorem readDrawers_registry (l : DrawerLines) : (readDrawers l s).registry = s.registry := rfl
@[simp] theorem readDrawers_tables (l : DrawerLines) : (readDrawers l s).tables = s.tables := rfl
@[simp] theorem readDrawers_counters (l : DrawerLines) : (readDrawers l s).counters = s.counters := rfl
@[simp] theorem readDrawers_stations (l : DrawerLines) : (readDrawers l s).stations = s.stations := rfl
@[simp] theorem readDrawers_points (l : DrawerLines) : (readDrawers l s).points = s.points := rfl
@[simp] theorem readDrawers_sched (l : DrawerLines) : (readDrawers l s).sched = s.sched := rfl
@[simp] theorem readDrawers_tracker (l : DrawerLines) : (readDrawers l s).tracker = s.tracker := rfl
@[simp] theorem readDrawers_shelf (l : DrawerLines) : (readDrawers l s).shelf = s.shelf := rfl
@[simp] theorem readDrawers_collator (l : DrawerLines) : (readDrawers l s).collator = s.collator := rfl
@[simp] theorem readDrawers_path (l : DrawerLines) : (readDrawers l s).path = s.path := rfl
@[simp] theorem readDrawers_report (l : DrawerLines) : (readDrawers l s).report = s.report := rfl
@[simp] theorem readDrawers_imager (l : DrawerLines) : (readDrawers l s).imager = s.imager := rfl
@[simp] theorem readDrawers_orderOut (l : DrawerLines) : (readDrawers l s).orderOut = s.orderOut := rfl
@[simp] theorem readDrawers_inputs (l : DrawerLines) : (readDrawers l s).inputs = { s.inputs with drawers := l } := rfl

/-! ### releaseRefs -/

@[simp] theorem releaseRefs_pending (bs : List Bank) : (releaseRefs bs s).pending = s.pending := rfl
@[simp] theorem releaseRefs_inputs (bs : List Bank) : (releaseRefs bs s).inputs = s.inputs := rfl
@[simp] theorem releaseRefs_intake (bs : List Bank) : (releaseRefs bs s).intake = s.intake := rfl
@[simp] theorem releaseRefs_orders (bs : List Bank) : (releaseRefs bs s).orders = s.orders := rfl
@[simp] theorem releaseRefs_registry (bs : List Bank) : (releaseRefs bs s).registry = s.registry := rfl
@[simp] theorem releaseRefs_tables (bs : List Bank) : (releaseRefs bs s).tables = bs.foldl (fun t b => releaseRef b t) s.tables := rfl
@[simp] theorem releaseRefs_counters (bs : List Bank) : (releaseRefs bs s).counters = s.counters := rfl
@[simp] theorem releaseRefs_stations (bs : List Bank) : (releaseRefs bs s).stations = s.stations := rfl
@[simp] theorem releaseRefs_points (bs : List Bank) : (releaseRefs bs s).points = s.points := rfl
@[simp] theorem releaseRefs_sched (bs : List Bank) : (releaseRefs bs s).sched = s.sched := rfl
@[simp] theorem releaseRefs_tracker (bs : List Bank) : (releaseRefs bs s).tracker = s.tracker := rfl
@[simp] theorem releaseRefs_shelf (bs : List Bank) : (releaseRefs bs s).shelf = s.shelf := rfl
@[simp] theorem releaseRefs_collator (bs : List Bank) : (releaseRefs bs s).collator = s.collator := rfl
@[simp] theorem releaseRefs_path (bs : List Bank) : (releaseRefs bs s).path = s.path := rfl
@[simp] theorem releaseRefs_report (bs : List Bank) : (releaseRefs bs s).report = s.report := rfl
@[simp] theorem releaseRefs_imager (bs : List Bank) : (releaseRefs bs s).imager = s.imager := rfl
@[simp] theorem releaseRefs_orderOut (bs : List Bank) : (releaseRefs bs s).orderOut = s.orderOut := rfl

/-! ### resample -/

@[simp] theorem resample_pending : (resample s).pending = s.pending := rfl
@[simp] theorem resample_inputs : (resample s).inputs = s.inputs := rfl
@[simp] theorem resample_intake : (resample s).intake = s.intake := rfl
@[simp] theorem resample_orders : (resample s).orders = s.orders := rfl
@[simp] theorem resample_registry : (resample s).registry = s.registry := rfl
@[simp] theorem resample_tables : (resample s).tables = s.tables := rfl
@[simp] theorem resample_counters : (resample s).counters = s.counters := rfl
@[simp] theorem resample_stations : (resample s).stations = mapStations (fun k => { k with level := k.line, edge := none }) s.stations := rfl
@[simp] theorem resample_points : (resample s).points = s.points.filter (fun q => !isDebounce q.event) := rfl
@[simp] theorem resample_sched : (resample s).sched = s.sched := rfl
@[simp] theorem resample_tracker : (resample s).tracker = s.tracker := rfl
@[simp] theorem resample_shelf : (resample s).shelf = s.shelf := rfl
@[simp] theorem resample_collator : (resample s).collator = s.collator := rfl
@[simp] theorem resample_path : (resample s).path = s.path := rfl
@[simp] theorem resample_report : (resample s).report = s.report := rfl
@[simp] theorem resample_imager : (resample s).imager = s.imager := rfl
@[simp] theorem resample_orderOut : (resample s).orderOut = s.orderOut := rfl

/-! ### pathReport -/

@[simp] theorem pathReport_pending : (pathReport s).pending = s.pending := rfl
@[simp] theorem pathReport_inputs : (pathReport s).inputs = s.inputs := rfl
@[simp] theorem pathReport_intake : (pathReport s).intake = s.intake := rfl
@[simp] theorem pathReport_orders : (pathReport s).orders = s.orders := rfl
@[simp] theorem pathReport_registry : (pathReport s).registry = s.registry := rfl
@[simp] theorem pathReport_tables : (pathReport s).tables = s.tables := rfl
@[simp] theorem pathReport_counters : (pathReport s).counters = s.counters := rfl
@[simp] theorem pathReport_stations : (pathReport s).stations = s.stations := rfl
@[simp] theorem pathReport_points : (pathReport s).points = s.points := rfl
@[simp] theorem pathReport_sched : (pathReport s).sched = s.sched := rfl
@[simp] theorem pathReport_tracker : (pathReport s).tracker = s.tracker := rfl
@[simp] theorem pathReport_shelf : (pathReport s).shelf = s.shelf := rfl
@[simp] theorem pathReport_collator : (pathReport s).collator = s.collator := rfl
@[simp] theorem pathReport_path : (pathReport s).path = s.path := rfl
@[simp] theorem pathReport_report : (pathReport s).report = enqueueReport (.path s.path.state s.path.runActive) s.report := rfl
@[simp] theorem pathReport_imager : (pathReport s).imager = s.imager := rfl
@[simp] theorem pathReport_orderOut : (pathReport s).orderOut = s.orderOut := rfl

/-! ### withPathState -/

@[simp] theorem withPathState_pending (st : PathState) : (withPathState st s).pending = s.pending := rfl
@[simp] theorem withPathState_inputs (st : PathState) : (withPathState st s).inputs = s.inputs := rfl
@[simp] theorem withPathState_intake (st : PathState) : (withPathState st s).intake = s.intake := rfl
@[simp] theorem withPathState_orders (st : PathState) : (withPathState st s).orders = s.orders := rfl
@[simp] theorem withPathState_registry (st : PathState) : (withPathState st s).registry = s.registry := rfl
@[simp] theorem withPathState_tables (st : PathState) : (withPathState st s).tables = s.tables := rfl
@[simp] theorem withPathState_counters (st : PathState) : (withPathState st s).counters = s.counters := rfl
@[simp] theorem withPathState_stations (st : PathState) : (withPathState st s).stations = s.stations := rfl
@[simp] theorem withPathState_points (st : PathState) : (withPathState st s).points = s.points := rfl
@[simp] theorem withPathState_sched (st : PathState) : (withPathState st s).sched = s.sched := rfl
@[simp] theorem withPathState_tracker (st : PathState) : (withPathState st s).tracker = s.tracker := rfl
@[simp] theorem withPathState_shelf (st : PathState) : (withPathState st s).shelf = s.shelf := rfl
@[simp] theorem withPathState_collator (st : PathState) : (withPathState st s).collator = s.collator := rfl
@[simp] theorem withPathState_path (st : PathState) : (withPathState st s).path = { s.path with state := st } := rfl
@[simp] theorem withPathState_report (st : PathState) : (withPathState st s).report = s.report := rfl
@[simp] theorem withPathState_imager (st : PathState) : (withPathState st s).imager = s.imager := rfl
@[simp] theorem withPathState_orderOut (st : PathState) : (withPathState st s).orderOut = s.orderOut := rfl

/-! ### setPathState -/

@[simp] theorem setPathState_pending (st : PathState) : (setPathState st s).pending = s.pending := rfl
@[simp] theorem setPathState_inputs (st : PathState) : (setPathState st s).inputs = s.inputs := rfl
@[simp] theorem setPathState_intake (st : PathState) : (setPathState st s).intake = s.intake := rfl
@[simp] theorem setPathState_orders (st : PathState) : (setPathState st s).orders = s.orders := rfl
@[simp] theorem setPathState_registry (st : PathState) : (setPathState st s).registry = s.registry := rfl
@[simp] theorem setPathState_tables (st : PathState) : (setPathState st s).tables = s.tables := rfl
@[simp] theorem setPathState_counters (st : PathState) : (setPathState st s).counters = s.counters := rfl
@[simp] theorem setPathState_stations (st : PathState) : (setPathState st s).stations = s.stations := rfl
@[simp] theorem setPathState_points (st : PathState) : (setPathState st s).points = s.points := rfl
@[simp] theorem setPathState_sched (st : PathState) : (setPathState st s).sched = s.sched := rfl
@[simp] theorem setPathState_tracker (st : PathState) : (setPathState st s).tracker = s.tracker := rfl
@[simp] theorem setPathState_shelf (st : PathState) : (setPathState st s).shelf = s.shelf := rfl
@[simp] theorem setPathState_collator (st : PathState) : (setPathState st s).collator = s.collator := rfl
@[simp] theorem setPathState_path (st : PathState) : (setPathState st s).path = { s.path with state := st } := rfl
@[simp] theorem setPathState_report (st : PathState) : (setPathState st s).report = enqueueReport (.path st s.path.runActive) s.report := rfl
@[simp] theorem setPathState_imager (st : PathState) : (setPathState st s).imager = s.imager := rfl
@[simp] theorem setPathState_orderOut (st : PathState) : (setPathState st s).orderOut = s.orderOut := rfl

/-! ### desync -/

@[simp] theorem desync_pending : (desync s).pending = s.pending := rfl
@[simp] theorem desync_inputs : (desync s).inputs = s.inputs := rfl
@[simp] theorem desync_intake : (desync s).intake = s.intake := rfl
@[simp] theorem desync_orders : (desync s).orders = s.orders := rfl
@[simp] theorem desync_registry : (desync s).registry = s.registry := rfl
@[simp] theorem desync_tables : (desync s).tables = s.tables := rfl
@[simp] theorem desync_counters : (desync s).counters = s.counters := rfl
@[simp] theorem desync_stations : (desync s).stations = s.stations := rfl
@[simp] theorem desync_points : (desync s).points = s.points.filter (fun q => !isBeltPoint q.event) := rfl
@[simp] theorem desync_sched : (desync s).sched = { s.sched with seam := none, nextPitch := 0 } := rfl
@[simp] theorem desync_tracker : (desync s).tracker = s.tracker := rfl
@[simp] theorem desync_shelf : (desync s).shelf = s.shelf := rfl
@[simp] theorem desync_collator : (desync s).collator = s.collator := rfl
@[simp] theorem desync_path : (desync s).path = s.path := rfl
@[simp] theorem desync_report : (desync s).report = s.report := rfl
@[simp] theorem desync_imager : (desync s).imager = s.imager := rfl
@[simp] theorem desync_orderOut : (desync s).orderOut = s.orderOut := rfl

/-! ### driveStart -/

@[simp] theorem driveStart_pending : (driveStart s).pending = s.pending := rfl
@[simp] theorem driveStart_inputs : (driveStart s).inputs = s.inputs := rfl
@[simp] theorem driveStart_intake : (driveStart s).intake = s.intake := rfl
@[simp] theorem driveStart_orders : (driveStart s).orders = s.orders := rfl
@[simp] theorem driveStart_registry : (driveStart s).registry = s.registry := rfl
@[simp] theorem driveStart_tables : (driveStart s).tables = s.tables := rfl
@[simp] theorem driveStart_counters : (driveStart s).counters = s.counters := rfl
@[simp] theorem driveStart_stations : (driveStart s).stations = s.stations := rfl
@[simp] theorem driveStart_points : (driveStart s).points = s.points.filter (fun q => !isBeltPoint q.event) := rfl
@[simp] theorem driveStart_sched : (driveStart s).sched = { s.sched with seam := none, nextPitch := 0 } := rfl
@[simp] theorem driveStart_tracker : (driveStart s).tracker = s.tracker := rfl
@[simp] theorem driveStart_shelf : (driveStart s).shelf = s.shelf := rfl
@[simp] theorem driveStart_collator : (driveStart s).collator = s.collator := rfl
@[simp] theorem driveStart_path : (driveStart s).path = { s.path with drives := true } := rfl
@[simp] theorem driveStart_report : (driveStart s).report = s.report := rfl
@[simp] theorem driveStart_imager : (driveStart s).imager = s.imager := rfl
@[simp] theorem driveStart_orderOut : (driveStart s).orderOut = s.orderOut := rfl

/-! ### driveStop -/

@[simp] theorem driveStop_pending : (driveStop s).pending = s.pending := rfl
@[simp] theorem driveStop_inputs : (driveStop s).inputs = s.inputs := rfl
@[simp] theorem driveStop_intake : (driveStop s).intake = s.intake := rfl
@[simp] theorem driveStop_orders : (driveStop s).orders = s.orders := rfl
@[simp] theorem driveStop_registry : (driveStop s).registry = s.registry := rfl
@[simp] theorem driveStop_tables : (driveStop s).tables = s.tables := rfl
@[simp] theorem driveStop_counters : (driveStop s).counters = s.counters := rfl
@[simp] theorem driveStop_stations : (driveStop s).stations = s.stations := rfl
@[simp] theorem driveStop_points : (driveStop s).points = s.points.filter (fun q => !isBeltPoint q.event) := rfl
@[simp] theorem driveStop_sched : (driveStop s).sched = { s.sched with seam := none, nextPitch := 0, clutches := Clutches.released } := rfl
@[simp] theorem driveStop_tracker : (driveStop s).tracker = s.tracker := rfl
@[simp] theorem driveStop_shelf : (driveStop s).shelf = s.shelf := rfl
@[simp] theorem driveStop_collator : (driveStop s).collator = s.collator := rfl
@[simp] theorem driveStop_path : (driveStop s).path = { s.path with drives := false } := rfl
@[simp] theorem driveStop_report : (driveStop s).report = s.report := rfl
@[simp] theorem driveStop_imager : (driveStop s).imager = s.imager := rfl
@[simp] theorem driveStop_orderOut : (driveStop s).orderOut = s.orderOut := rfl

/-! ### strandAll -/

@[simp] theorem strandAll_pending : (strandAll s).pending = s.pending := rfl
@[simp] theorem strandAll_inputs : (strandAll s).inputs = s.inputs := rfl
@[simp] theorem strandAll_intake : (strandAll s).intake = s.intake := rfl
@[simp] theorem strandAll_orders : (strandAll s).orders = s.orders := rfl
@[simp] theorem strandAll_registry : (strandAll s).registry = s.registry := rfl
@[simp] theorem strandAll_tables : (strandAll s).tables = s.tables := rfl
@[simp] theorem strandAll_counters : (strandAll s).counters = s.counters := rfl
@[simp] theorem strandAll_stations : (strandAll s).stations = s.stations := rfl
@[simp] theorem strandAll_points : (strandAll s).points = s.points := rfl
@[simp] theorem strandAll_sched : (strandAll s).sched = s.sched := rfl
@[simp] theorem strandAll_tracker : (strandAll s).tracker = { s.tracker with table := s.tracker.table.map (fun e => { e with state := .stranded }) } := rfl
@[simp] theorem strandAll_shelf : (strandAll s).shelf = s.shelf := rfl
@[simp] theorem strandAll_collator : (strandAll s).collator = s.collator := rfl
@[simp] theorem strandAll_path : (strandAll s).path = s.path := rfl
@[simp] theorem strandAll_report : (strandAll s).report = s.report := rfl
@[simp] theorem strandAll_imager : (strandAll s).imager = s.imager := rfl
@[simp] theorem strandAll_orderOut : (strandAll s).orderOut = s.orderOut := rfl

/-! ### nextTurn, arrive and withRetry -/

@[simp] theorem nextTurn_pending : (nextTurn s).pending = turnDue s ++ s.pending := rfl
@[simp] theorem nextTurn_inputs : (nextTurn s).inputs = s.inputs := rfl
@[simp] theorem nextTurn_intake : (nextTurn s).intake = s.intake := rfl
@[simp] theorem nextTurn_orders : (nextTurn s).orders = s.orders := rfl
@[simp] theorem nextTurn_registry : (nextTurn s).registry = s.registry := rfl
@[simp] theorem nextTurn_tables : (nextTurn s).tables = s.tables := rfl
@[simp] theorem nextTurn_counters : (nextTurn s).counters = s.counters := rfl
@[simp] theorem nextTurn_stations : (nextTurn s).stations = s.stations := rfl
@[simp] theorem nextTurn_points : (nextTurn s).points = s.points := rfl
@[simp] theorem nextTurn_sched : (nextTurn s).sched = s.sched := rfl
@[simp] theorem nextTurn_tracker : (nextTurn s).tracker = s.tracker := rfl
@[simp] theorem nextTurn_shelf : (nextTurn s).shelf = s.shelf := rfl
@[simp] theorem nextTurn_collator : (nextTurn s).collator = s.collator := rfl
@[simp] theorem nextTurn_path : (nextTurn s).path = s.path := rfl
@[simp] theorem nextTurn_report : (nextTurn s).report = s.report := rfl
@[simp] theorem nextTurn_imager : (nextTurn s).imager = s.imager := rfl
@[simp] theorem nextTurn_orderOut : (nextTurn s).orderOut = s.orderOut := rfl
@[simp] theorem arrive_inputs (f : Receiver → Receiver) : (arrive f s).inputs = s.inputs := rfl
@[simp] theorem arrive_intake (f : Receiver → Receiver) :
    (arrive f s).intake = { s.intake with rx := f s.intake.rx } := rfl
@[simp] theorem arrive_orders (f : Receiver → Receiver) : (arrive f s).orders = s.orders := rfl
@[simp] theorem arrive_registry (f : Receiver → Receiver) : (arrive f s).registry = s.registry := rfl
@[simp] theorem arrive_tables (f : Receiver → Receiver) : (arrive f s).tables = s.tables := rfl
@[simp] theorem arrive_counters (f : Receiver → Receiver) : (arrive f s).counters = s.counters := rfl
@[simp] theorem arrive_stations (f : Receiver → Receiver) : (arrive f s).stations = s.stations := rfl
@[simp] theorem arrive_points (f : Receiver → Receiver) : (arrive f s).points = s.points := rfl
@[simp] theorem arrive_sched (f : Receiver → Receiver) : (arrive f s).sched = s.sched := rfl
@[simp] theorem arrive_tracker (f : Receiver → Receiver) : (arrive f s).tracker = s.tracker := rfl
@[simp] theorem arrive_shelf (f : Receiver → Receiver) : (arrive f s).shelf = s.shelf := rfl
@[simp] theorem arrive_collator (f : Receiver → Receiver) : (arrive f s).collator = s.collator := rfl
@[simp] theorem arrive_path (f : Receiver → Receiver) : (arrive f s).path = s.path := rfl
@[simp] theorem arrive_report (f : Receiver → Receiver) : (arrive f s).report = s.report := rfl
@[simp] theorem arrive_imager (f : Receiver → Receiver) : (arrive f s).imager = s.imager := rfl
@[simp] theorem arrive_orderOut (f : Receiver → Receiver) : (arrive f s).orderOut = s.orderOut := rfl
@[simp] theorem withRetry_inputs (f : State → State) : (withRetry f s).inputs = (f s).inputs := rfl
@[simp] theorem withRetry_intake (f : State → State) : (withRetry f s).intake = (f s).intake := rfl
@[simp] theorem withRetry_orders (f : State → State) : (withRetry f s).orders = (f s).orders := rfl
@[simp] theorem withRetry_registry (f : State → State) : (withRetry f s).registry = (f s).registry := rfl
@[simp] theorem withRetry_tables (f : State → State) : (withRetry f s).tables = (f s).tables := rfl
@[simp] theorem withRetry_counters (f : State → State) : (withRetry f s).counters = (f s).counters := rfl
@[simp] theorem withRetry_stations (f : State → State) : (withRetry f s).stations = (f s).stations := rfl
@[simp] theorem withRetry_points (f : State → State) : (withRetry f s).points = (f s).points := rfl
@[simp] theorem withRetry_sched (f : State → State) : (withRetry f s).sched = (f s).sched := rfl
@[simp] theorem withRetry_tracker (f : State → State) : (withRetry f s).tracker = (f s).tracker := rfl
@[simp] theorem withRetry_shelf (f : State → State) : (withRetry f s).shelf = (f s).shelf := rfl
@[simp] theorem withRetry_collator (f : State → State) : (withRetry f s).collator = (f s).collator := rfl
@[simp] theorem withRetry_path (f : State → State) : (withRetry f s).path = (f s).path := rfl
@[simp] theorem withRetry_report (f : State → State) : (withRetry f s).report = (f s).report := rfl
@[simp] theorem withRetry_imager (f : State → State) : (withRetry f s).imager = (f s).imager := rfl
@[simp] theorem withRetry_orderOut (f : State → State) : (withRetry f s).orderOut = (f s).orderOut := rfl

/-! ### elapse -/

@[simp] theorem elapse_inputs (d : Nat) : (elapse d s).inputs = s.inputs := rfl
@[simp] theorem elapse_intake (d : Nat) : (elapse d s).intake = { s.intake with rx := receiveElapse d s.intake.rx } := rfl
@[simp] theorem elapse_orders (d : Nat) : (elapse d s).orders = s.orders := rfl
@[simp] theorem elapse_registry (d : Nat) : (elapse d s).registry = s.registry := rfl
@[simp] theorem elapse_tables (d : Nat) : (elapse d s).tables = s.tables := rfl
@[simp] theorem elapse_counters (d : Nat) : (elapse d s).counters = s.counters := rfl
@[simp] theorem elapse_stations (d : Nat) : (elapse d s).stations = s.stations := rfl
@[simp] theorem elapse_points (d : Nat) : (elapse d s).points = s.points := rfl
@[simp] theorem elapse_sched (d : Nat) : (elapse d s).sched = s.sched := rfl
@[simp] theorem elapse_tracker (d : Nat) : (elapse d s).tracker = s.tracker := rfl
@[simp] theorem elapse_shelf (d : Nat) : (elapse d s).shelf = s.shelf := rfl
@[simp] theorem elapse_collator (d : Nat) : (elapse d s).collator = { s.collator with timer := s.collator.timer.map (timerElapse d) } := rfl
@[simp] theorem elapse_path (d : Nat) : (elapse d s).path = { s.path with silence := s.path.silence + d } := rfl
@[simp] theorem elapse_report (d : Nat) : (elapse d s).report = { s.report with timeTag := s.report.timeTag + BitVec.ofNat 16 d } := rfl
@[simp] theorem elapse_imager (d : Nat) : (elapse d s).imager = s.imager := rfl
@[simp] theorem elapse_orderOut (d : Nat) : (elapse d s).orderOut = s.orderOut := rfl

/-! ### updateSet -/

@[simp] theorem updateSet_pending (n : SetNumber) (f : SetEntry → SetEntry) : (updateSet n f s).pending = s.pending := rfl
@[simp] theorem updateSet_inputs (n : SetNumber) (f : SetEntry → SetEntry) : (updateSet n f s).inputs = s.inputs := rfl
@[simp] theorem updateSet_intake (n : SetNumber) (f : SetEntry → SetEntry) : (updateSet n f s).intake = s.intake := rfl
@[simp] theorem updateSet_orders (n : SetNumber) (f : SetEntry → SetEntry) : (updateSet n f s).orders = s.orders := rfl
@[simp] theorem updateSet_registry (n : SetNumber) (f : SetEntry → SetEntry) : (updateSet n f s).registry = s.registry.map (fun e => if e.set = n then f e else e) := rfl
@[simp] theorem updateSet_tables (n : SetNumber) (f : SetEntry → SetEntry) : (updateSet n f s).tables = s.tables := rfl
@[simp] theorem updateSet_counters (n : SetNumber) (f : SetEntry → SetEntry) : (updateSet n f s).counters = s.counters := rfl
@[simp] theorem updateSet_stations (n : SetNumber) (f : SetEntry → SetEntry) : (updateSet n f s).stations = s.stations := rfl
@[simp] theorem updateSet_points (n : SetNumber) (f : SetEntry → SetEntry) : (updateSet n f s).points = s.points := rfl
@[simp] theorem updateSet_sched (n : SetNumber) (f : SetEntry → SetEntry) : (updateSet n f s).sched = s.sched := rfl
@[simp] theorem updateSet_tracker (n : SetNumber) (f : SetEntry → SetEntry) : (updateSet n f s).tracker = s.tracker := rfl
@[simp] theorem updateSet_shelf (n : SetNumber) (f : SetEntry → SetEntry) : (updateSet n f s).shelf = s.shelf := rfl
@[simp] theorem updateSet_collator (n : SetNumber) (f : SetEntry → SetEntry) : (updateSet n f s).collator = s.collator := rfl
@[simp] theorem updateSet_path (n : SetNumber) (f : SetEntry → SetEntry) : (updateSet n f s).path = s.path := rfl
@[simp] theorem updateSet_report (n : SetNumber) (f : SetEntry → SetEntry) : (updateSet n f s).report = s.report := rfl
@[simp] theorem updateSet_imager (n : SetNumber) (f : SetEntry → SetEntry) : (updateSet n f s).imager = s.imager := rfl
@[simp] theorem updateSet_orderOut (n : SetNumber) (f : SetEntry → SetEntry) : (updateSet n f s).orderOut = s.orderOut := rfl

/-! ### removeSet -/

@[simp] theorem removeSet_pending (n : SetNumber) : (removeSet n s).pending = s.pending := rfl
@[simp] theorem removeSet_inputs (n : SetNumber) : (removeSet n s).inputs = s.inputs := rfl
@[simp] theorem removeSet_intake (n : SetNumber) : (removeSet n s).intake = s.intake := rfl
@[simp] theorem removeSet_orders (n : SetNumber) : (removeSet n s).orders = s.orders := rfl
@[simp] theorem removeSet_registry (n : SetNumber) : (removeSet n s).registry = s.registry.filter (fun e => decide (e.set ≠ n)) := rfl
@[simp] theorem removeSet_tables (n : SetNumber) : (removeSet n s).tables = s.tables := rfl
@[simp] theorem removeSet_counters (n : SetNumber) : (removeSet n s).counters = s.counters := rfl
@[simp] theorem removeSet_stations (n : SetNumber) : (removeSet n s).stations = s.stations := rfl
@[simp] theorem removeSet_points (n : SetNumber) : (removeSet n s).points = s.points := rfl
@[simp] theorem removeSet_sched (n : SetNumber) : (removeSet n s).sched = s.sched := rfl
@[simp] theorem removeSet_tracker (n : SetNumber) : (removeSet n s).tracker = s.tracker := rfl
@[simp] theorem removeSet_shelf (n : SetNumber) : (removeSet n s).shelf = s.shelf := rfl
@[simp] theorem removeSet_collator (n : SetNumber) : (removeSet n s).collator = s.collator := rfl
@[simp] theorem removeSet_path (n : SetNumber) : (removeSet n s).path = s.path := rfl
@[simp] theorem removeSet_report (n : SetNumber) : (removeSet n s).report = s.report := rfl
@[simp] theorem removeSet_imager (n : SetNumber) : (removeSet n s).imager = s.imager := rfl
@[simp] theorem removeSet_orderOut (n : SetNumber) : (removeSet n s).orderOut = s.orderOut := rfl

/-! ### removeOrders -/

@[simp] theorem removeOrders_pending (n : SetNumber) : (removeOrders n s).pending = s.pending := rfl
@[simp] theorem removeOrders_inputs (n : SetNumber) : (removeOrders n s).inputs = s.inputs := rfl
@[simp] theorem removeOrders_intake (n : SetNumber) : (removeOrders n s).intake = s.intake := rfl
@[simp] theorem removeOrders_orders (n : SetNumber) : (removeOrders n s).orders = s.orders.filter (fun o => decide (o.sheet.set ≠ n)) := rfl
@[simp] theorem removeOrders_registry (n : SetNumber) : (removeOrders n s).registry = s.registry := rfl
@[simp] theorem removeOrders_tables (n : SetNumber) : (removeOrders n s).tables = ((s.orders.filter (fun o => decide (o.sheet.set = n))).map (fun o => o.gen)).foldl (fun t b => releaseRef b t) s.tables := rfl
@[simp] theorem removeOrders_counters (n : SetNumber) : (removeOrders n s).counters = s.counters := rfl
@[simp] theorem removeOrders_stations (n : SetNumber) : (removeOrders n s).stations = s.stations := rfl
@[simp] theorem removeOrders_points (n : SetNumber) : (removeOrders n s).points = s.points := rfl
@[simp] theorem removeOrders_sched (n : SetNumber) : (removeOrders n s).sched = s.sched := rfl
@[simp] theorem removeOrders_tracker (n : SetNumber) : (removeOrders n s).tracker = s.tracker := rfl
@[simp] theorem removeOrders_shelf (n : SetNumber) : (removeOrders n s).shelf = s.shelf := rfl
@[simp] theorem removeOrders_collator (n : SetNumber) : (removeOrders n s).collator = s.collator := rfl
@[simp] theorem removeOrders_path (n : SetNumber) : (removeOrders n s).path = s.path := rfl
@[simp] theorem removeOrders_report (n : SetNumber) : (removeOrders n s).report = s.report := rfl
@[simp] theorem removeOrders_imager (n : SetNumber) : (removeOrders n s).imager = s.imager := rfl
@[simp] theorem removeOrders_orderOut (n : SetNumber) : (removeOrders n s).orderOut = s.orderOut := rfl

/-! ### flagSet -/

@[simp] theorem flagSet_pending (n : SetNumber) (r : SpoilReason) : (flagSet n r s).pending = s.pending := rfl
@[simp] theorem flagSet_inputs (n : SetNumber) (r : SpoilReason) : (flagSet n r s).inputs = s.inputs := rfl
@[simp] theorem flagSet_intake (n : SetNumber) (r : SpoilReason) : (flagSet n r s).intake = s.intake := rfl
@[simp] theorem flagSet_orders (n : SetNumber) (r : SpoilReason) : (flagSet n r s).orders = s.orders := rfl
@[simp] theorem flagSet_registry (n : SetNumber) (r : SpoilReason) : (flagSet n r s).registry = s.registry := rfl
@[simp] theorem flagSet_tables (n : SetNumber) (r : SpoilReason) : (flagSet n r s).tables = s.tables := rfl
@[simp] theorem flagSet_counters (n : SetNumber) (r : SpoilReason) : (flagSet n r s).counters = s.counters := rfl
@[simp] theorem flagSet_stations (n : SetNumber) (r : SpoilReason) : (flagSet n r s).stations = s.stations := rfl
@[simp] theorem flagSet_points (n : SetNumber) (r : SpoilReason) : (flagSet n r s).points = s.points := rfl
@[simp] theorem flagSet_sched (n : SetNumber) (r : SpoilReason) : (flagSet n r s).sched = s.sched := rfl
@[simp] theorem flagSet_tracker (n : SetNumber) (r : SpoilReason) : (flagSet n r s).tracker = { s.tracker with table := s.tracker.table.map (fun e => if e.sheet.set = n then flagTrack r e else e) } := rfl
@[simp] theorem flagSet_shelf (n : SetNumber) (r : SpoilReason) : (flagSet n r s).shelf = s.shelf := rfl
@[simp] theorem flagSet_collator (n : SetNumber) (r : SpoilReason) : (flagSet n r s).collator = s.collator := rfl
@[simp] theorem flagSet_path (n : SetNumber) (r : SpoilReason) : (flagSet n r s).path = s.path := rfl
@[simp] theorem flagSet_report (n : SetNumber) (r : SpoilReason) : (flagSet n r s).report = s.report := rfl
@[simp] theorem flagSet_imager (n : SetNumber) (r : SpoilReason) : (flagSet n r s).imager = s.imager := rfl
@[simp] theorem flagSet_orderOut (n : SetNumber) (r : SpoilReason) : (flagSet n r s).orderOut = s.orderOut := rfl

/-! ### issueDump -/

@[simp] theorem issueDump_pending : (issueDump s).pending = s.pending := rfl
@[simp] theorem issueDump_inputs : (issueDump s).inputs = s.inputs := rfl
@[simp] theorem issueDump_intake : (issueDump s).intake = s.intake := rfl
@[simp] theorem issueDump_orders : (issueDump s).orders = s.orders := rfl
@[simp] theorem issueDump_registry : (issueDump s).registry = s.registry := rfl
@[simp] theorem issueDump_tables : (issueDump s).tables = s.tables := rfl
@[simp] theorem issueDump_counters : (issueDump s).counters = s.counters := rfl
@[simp] theorem issueDump_stations : (issueDump s).stations = s.stations := rfl
@[simp] theorem issueDump_points : (issueDump s).points = s.points := rfl
@[simp] theorem issueDump_sched : (issueDump s).sched = s.sched := rfl
@[simp] theorem issueDump_tracker : (issueDump s).tracker = s.tracker := rfl
@[simp] theorem issueDump_shelf : (issueDump s).shelf = s.shelf := rfl
@[simp] theorem issueDump_collator : (issueDump s).collator = { s.collator with mode := .dumping, dump := true, timer := startedTimer s } := rfl
@[simp] theorem issueDump_path : (issueDump s).path = s.path := rfl
@[simp] theorem issueDump_report : (issueDump s).report = s.report := rfl
@[simp] theorem issueDump_imager : (issueDump s).imager = s.imager := rfl
@[simp] theorem issueDump_orderOut : (issueDump s).orderOut = s.orderOut := rfl

/-! ### updateTrack -/

@[simp] theorem updateTrack_pending (id : SheetId) (h : Track → Track) : (updateTrack id h s).pending = s.pending := rfl
@[simp] theorem updateTrack_inputs (id : SheetId) (h : Track → Track) : (updateTrack id h s).inputs = s.inputs := rfl
@[simp] theorem updateTrack_intake (id : SheetId) (h : Track → Track) : (updateTrack id h s).intake = s.intake := rfl
@[simp] theorem updateTrack_orders (id : SheetId) (h : Track → Track) : (updateTrack id h s).orders = s.orders := rfl
@[simp] theorem updateTrack_registry (id : SheetId) (h : Track → Track) : (updateTrack id h s).registry = s.registry := rfl
@[simp] theorem updateTrack_tables (id : SheetId) (h : Track → Track) : (updateTrack id h s).tables = s.tables := rfl
@[simp] theorem updateTrack_counters (id : SheetId) (h : Track → Track) : (updateTrack id h s).counters = s.counters := rfl
@[simp] theorem updateTrack_stations (id : SheetId) (h : Track → Track) : (updateTrack id h s).stations = s.stations := rfl
@[simp] theorem updateTrack_points (id : SheetId) (h : Track → Track) : (updateTrack id h s).points = s.points := rfl
@[simp] theorem updateTrack_sched (id : SheetId) (h : Track → Track) : (updateTrack id h s).sched = s.sched := rfl
@[simp] theorem updateTrack_tracker (id : SheetId) (h : Track → Track) : (updateTrack id h s).tracker = { s.tracker with table := s.tracker.table.map (fun e => if e.sheet = id then h e else e) } := rfl
@[simp] theorem updateTrack_shelf (id : SheetId) (h : Track → Track) : (updateTrack id h s).shelf = s.shelf := rfl
@[simp] theorem updateTrack_collator (id : SheetId) (h : Track → Track) : (updateTrack id h s).collator = s.collator := rfl
@[simp] theorem updateTrack_path (id : SheetId) (h : Track → Track) : (updateTrack id h s).path = s.path := rfl
@[simp] theorem updateTrack_report (id : SheetId) (h : Track → Track) : (updateTrack id h s).report = s.report := rfl
@[simp] theorem updateTrack_imager (id : SheetId) (h : Track → Track) : (updateTrack id h s).imager = s.imager := rfl
@[simp] theorem updateTrack_orderOut (id : SheetId) (h : Track → Track) : (updateTrack id h s).orderOut = s.orderOut := rfl

/-! ### removeTrack -/

@[simp] theorem removeTrack_pending (id : SheetId) : (removeTrack id s).pending = s.pending := rfl
@[simp] theorem removeTrack_inputs (id : SheetId) : (removeTrack id s).inputs = s.inputs := rfl
@[simp] theorem removeTrack_intake (id : SheetId) : (removeTrack id s).intake = s.intake := rfl
@[simp] theorem removeTrack_orders (id : SheetId) : (removeTrack id s).orders = s.orders := rfl
@[simp] theorem removeTrack_registry (id : SheetId) : (removeTrack id s).registry = s.registry := rfl
@[simp] theorem removeTrack_tables (id : SheetId) : (removeTrack id s).tables = s.tables := rfl
@[simp] theorem removeTrack_counters (id : SheetId) : (removeTrack id s).counters = s.counters := rfl
@[simp] theorem removeTrack_stations (id : SheetId) : (removeTrack id s).stations = s.stations := rfl
@[simp] theorem removeTrack_points (id : SheetId) : (removeTrack id s).points = s.points := rfl
@[simp] theorem removeTrack_sched (id : SheetId) : (removeTrack id s).sched = s.sched := rfl
@[simp] theorem removeTrack_tracker (id : SheetId) : (removeTrack id s).tracker = { s.tracker with table := s.tracker.table.filter (fun e => decide (e.sheet ≠ id)) } := rfl
@[simp] theorem removeTrack_shelf (id : SheetId) : (removeTrack id s).shelf = s.shelf := rfl
@[simp] theorem removeTrack_collator (id : SheetId) : (removeTrack id s).collator = s.collator := rfl
@[simp] theorem removeTrack_path (id : SheetId) : (removeTrack id s).path = s.path := rfl
@[simp] theorem removeTrack_report (id : SheetId) : (removeTrack id s).report = s.report := rfl
@[simp] theorem removeTrack_imager (id : SheetId) : (removeTrack id s).imager = s.imager := rfl
@[simp] theorem removeTrack_orderOut (id : SheetId) : (removeTrack id s).orderOut = s.orderOut := rfl

/-! ### setDiverter -/

@[simp] theorem setDiverter_pending (d : Diverter) : (setDiverter d s).pending = s.pending := rfl
@[simp] theorem setDiverter_inputs (d : Diverter) : (setDiverter d s).inputs = s.inputs := rfl
@[simp] theorem setDiverter_intake (d : Diverter) : (setDiverter d s).intake = s.intake := rfl
@[simp] theorem setDiverter_orders (d : Diverter) : (setDiverter d s).orders = s.orders := rfl
@[simp] theorem setDiverter_registry (d : Diverter) : (setDiverter d s).registry = s.registry := rfl
@[simp] theorem setDiverter_tables (d : Diverter) : (setDiverter d s).tables = s.tables := rfl
@[simp] theorem setDiverter_counters (d : Diverter) : (setDiverter d s).counters = s.counters := rfl
@[simp] theorem setDiverter_stations (d : Diverter) : (setDiverter d s).stations = s.stations := rfl
@[simp] theorem setDiverter_points (d : Diverter) : (setDiverter d s).points = s.points := rfl
@[simp] theorem setDiverter_sched (d : Diverter) : (setDiverter d s).sched = s.sched := rfl
@[simp] theorem setDiverter_tracker (d : Diverter) : (setDiverter d s).tracker = { s.tracker with diverter := d } := rfl
@[simp] theorem setDiverter_shelf (d : Diverter) : (setDiverter d s).shelf = s.shelf := rfl
@[simp] theorem setDiverter_collator (d : Diverter) : (setDiverter d s).collator = s.collator := rfl
@[simp] theorem setDiverter_path (d : Diverter) : (setDiverter d s).path = s.path := rfl
@[simp] theorem setDiverter_report (d : Diverter) : (setDiverter d s).report = s.report := rfl
@[simp] theorem setDiverter_imager (d : Diverter) : (setDiverter d s).imager = s.imager := rfl
@[simp] theorem setDiverter_orderOut (d : Diverter) : (setDiverter d s).orderOut = s.orderOut := rfl

/-! ### sendImager -/

@[simp] theorem sendImager_pending (fr : List Byte) : (sendImager fr s).pending = s.pending := rfl
@[simp] theorem sendImager_inputs (fr : List Byte) : (sendImager fr s).inputs = s.inputs := rfl
@[simp] theorem sendImager_intake (fr : List Byte) : (sendImager fr s).intake = s.intake := rfl
@[simp] theorem sendImager_orders (fr : List Byte) : (sendImager fr s).orders = s.orders := rfl
@[simp] theorem sendImager_registry (fr : List Byte) : (sendImager fr s).registry = s.registry := rfl
@[simp] theorem sendImager_tables (fr : List Byte) : (sendImager fr s).tables = s.tables := rfl
@[simp] theorem sendImager_counters (fr : List Byte) : (sendImager fr s).counters = s.counters := rfl
@[simp] theorem sendImager_stations (fr : List Byte) : (sendImager fr s).stations = s.stations := rfl
@[simp] theorem sendImager_points (fr : List Byte) : (sendImager fr s).points = s.points := rfl
@[simp] theorem sendImager_sched (fr : List Byte) : (sendImager fr s).sched = s.sched := rfl
@[simp] theorem sendImager_tracker (fr : List Byte) : (sendImager fr s).tracker = s.tracker := rfl
@[simp] theorem sendImager_shelf (fr : List Byte) : (sendImager fr s).shelf = s.shelf := rfl
@[simp] theorem sendImager_collator (fr : List Byte) : (sendImager fr s).collator = s.collator := rfl
@[simp] theorem sendImager_path (fr : List Byte) : (sendImager fr s).path = s.path := rfl
@[simp] theorem sendImager_report (fr : List Byte) : (sendImager fr s).report = s.report := rfl
@[simp] theorem sendImager_imager (fr : List Byte) : (sendImager fr s).imager = { s.imager with out := s.imager.out ++ [fr] } := rfl
@[simp] theorem sendImager_orderOut (fr : List Byte) : (sendImager fr s).orderOut = s.orderOut := rfl

/-! ### lowerGaps -/

@[simp] theorem lowerGaps_pending : (lowerGaps s).pending = s.pending := rfl
@[simp] theorem lowerGaps_inputs : (lowerGaps s).inputs = s.inputs := rfl
@[simp] theorem lowerGaps_intake : (lowerGaps s).intake = s.intake := rfl
@[simp] theorem lowerGaps_orders : (lowerGaps s).orders = s.orders := rfl
@[simp] theorem lowerGaps_registry : (lowerGaps s).registry = s.registry := rfl
@[simp] theorem lowerGaps_tables : (lowerGaps s).tables = s.tables := rfl
@[simp] theorem lowerGaps_counters : (lowerGaps s).counters = s.counters := rfl
@[simp] theorem lowerGaps_stations : (lowerGaps s).stations = s.stations := rfl
@[simp] theorem lowerGaps_points : (lowerGaps s).points = s.points := rfl
@[simp] theorem lowerGaps_sched : (lowerGaps s).sched = { s.sched with gap1 := s.sched.gap1 - 1, gap2 := s.sched.gap2 - 1 } := rfl
@[simp] theorem lowerGaps_tracker : (lowerGaps s).tracker = s.tracker := rfl
@[simp] theorem lowerGaps_shelf : (lowerGaps s).shelf = s.shelf := rfl
@[simp] theorem lowerGaps_collator : (lowerGaps s).collator = s.collator := rfl
@[simp] theorem lowerGaps_path : (lowerGaps s).path = s.path := rfl
@[simp] theorem lowerGaps_report : (lowerGaps s).report = s.report := rfl
@[simp] theorem lowerGaps_imager : (lowerGaps s).imager = s.imager := rfl
@[simp] theorem lowerGaps_orderOut : (lowerGaps s).orderOut = s.orderOut := rfl

/-! ### closeGate -/

@[simp] theorem closeGate_pending : (closeGate s).pending = s.pending := rfl
@[simp] theorem closeGate_inputs : (closeGate s).inputs = s.inputs := rfl
@[simp] theorem closeGate_intake : (closeGate s).intake = s.intake := rfl
@[simp] theorem closeGate_orders : (closeGate s).orders = s.orders := rfl
@[simp] theorem closeGate_registry : (closeGate s).registry = s.registry := rfl
@[simp] theorem closeGate_tables : (closeGate s).tables = s.tables := rfl
@[simp] theorem closeGate_counters : (closeGate s).counters = s.counters := rfl
@[simp] theorem closeGate_stations : (closeGate s).stations = s.stations := rfl
@[simp] theorem closeGate_points : (closeGate s).points = s.points := rfl
@[simp] theorem closeGate_sched : (closeGate s).sched = { s.sched with gateOpen := false } := rfl
@[simp] theorem closeGate_tracker : (closeGate s).tracker = s.tracker := rfl
@[simp] theorem closeGate_shelf : (closeGate s).shelf = s.shelf := rfl
@[simp] theorem closeGate_collator : (closeGate s).collator = s.collator := rfl
@[simp] theorem closeGate_path : (closeGate s).path = s.path := rfl
@[simp] theorem closeGate_report : (closeGate s).report = s.report := rfl
@[simp] theorem closeGate_imager : (closeGate s).imager = s.imager := rfl
@[simp] theorem closeGate_orderOut : (closeGate s).orderOut = s.orderOut := rfl

/-! ### withReceiver -/

@[simp] theorem withReceiver_pending (rx : Receiver) : (withReceiver rx s).pending = s.pending := rfl
@[simp] theorem withReceiver_inputs (rx : Receiver) : (withReceiver rx s).inputs = s.inputs := rfl
@[simp] theorem withReceiver_intake (rx : Receiver) : (withReceiver rx s).intake = { s.intake with rx := rx } := rfl
@[simp] theorem withReceiver_orders (rx : Receiver) : (withReceiver rx s).orders = s.orders := rfl
@[simp] theorem withReceiver_registry (rx : Receiver) : (withReceiver rx s).registry = s.registry := rfl
@[simp] theorem withReceiver_tables (rx : Receiver) : (withReceiver rx s).tables = s.tables := rfl
@[simp] theorem withReceiver_counters (rx : Receiver) : (withReceiver rx s).counters = s.counters := rfl
@[simp] theorem withReceiver_stations (rx : Receiver) : (withReceiver rx s).stations = s.stations := rfl
@[simp] theorem withReceiver_points (rx : Receiver) : (withReceiver rx s).points = s.points := rfl
@[simp] theorem withReceiver_sched (rx : Receiver) : (withReceiver rx s).sched = s.sched := rfl
@[simp] theorem withReceiver_tracker (rx : Receiver) : (withReceiver rx s).tracker = s.tracker := rfl
@[simp] theorem withReceiver_shelf (rx : Receiver) : (withReceiver rx s).shelf = s.shelf := rfl
@[simp] theorem withReceiver_collator (rx : Receiver) : (withReceiver rx s).collator = s.collator := rfl
@[simp] theorem withReceiver_path (rx : Receiver) : (withReceiver rx s).path = s.path := rfl
@[simp] theorem withReceiver_report (rx : Receiver) : (withReceiver rx s).report = s.report := rfl
@[simp] theorem withReceiver_imager (rx : Receiver) : (withReceiver rx s).imager = s.imager := rfl
@[simp] theorem withReceiver_orderOut (rx : Receiver) : (withReceiver rx s).orderOut = s.orderOut := rfl

/-! ### endHold -/

@[simp] theorem endHold_pending : (endHold s).pending = s.pending := rfl
@[simp] theorem endHold_inputs : (endHold s).inputs = s.inputs := rfl
@[simp] theorem endHold_intake : (endHold s).intake = { s.intake with held := none, rx := { s.intake.rx with frames := s.intake.rx.frames.drop 1 } } := rfl
@[simp] theorem endHold_orders : (endHold s).orders = s.orders := rfl
@[simp] theorem endHold_registry : (endHold s).registry = s.registry := rfl
@[simp] theorem endHold_tables : (endHold s).tables = s.tables := rfl
@[simp] theorem endHold_counters : (endHold s).counters = s.counters := rfl
@[simp] theorem endHold_stations : (endHold s).stations = s.stations := rfl
@[simp] theorem endHold_points : (endHold s).points = s.points := rfl
@[simp] theorem endHold_sched : (endHold s).sched = s.sched := rfl
@[simp] theorem endHold_tracker : (endHold s).tracker = s.tracker := rfl
@[simp] theorem endHold_shelf : (endHold s).shelf = s.shelf := rfl
@[simp] theorem endHold_collator : (endHold s).collator = s.collator := rfl
@[simp] theorem endHold_path : (endHold s).path = s.path := rfl
@[simp] theorem endHold_report : (endHold s).report = s.report := rfl
@[simp] theorem endHold_imager : (endHold s).imager = s.imager := rfl
@[simp] theorem endHold_orderOut : (endHold s).orderOut = s.orderOut := rfl

/-! ### setLoad -/

@[simp] theorem setLoad_pending (l : Load) : (setLoad l s).pending = s.pending := rfl
@[simp] theorem setLoad_inputs (l : Load) : (setLoad l s).inputs = s.inputs := rfl
@[simp] theorem setLoad_intake (l : Load) : (setLoad l s).intake = { s.intake with load := some l } := rfl
@[simp] theorem setLoad_orders (l : Load) : (setLoad l s).orders = s.orders := rfl
@[simp] theorem setLoad_registry (l : Load) : (setLoad l s).registry = s.registry := rfl
@[simp] theorem setLoad_tables (l : Load) : (setLoad l s).tables = s.tables := rfl
@[simp] theorem setLoad_counters (l : Load) : (setLoad l s).counters = s.counters := rfl
@[simp] theorem setLoad_stations (l : Load) : (setLoad l s).stations = s.stations := rfl
@[simp] theorem setLoad_points (l : Load) : (setLoad l s).points = s.points := rfl
@[simp] theorem setLoad_sched (l : Load) : (setLoad l s).sched = s.sched := rfl
@[simp] theorem setLoad_tracker (l : Load) : (setLoad l s).tracker = s.tracker := rfl
@[simp] theorem setLoad_shelf (l : Load) : (setLoad l s).shelf = s.shelf := rfl
@[simp] theorem setLoad_collator (l : Load) : (setLoad l s).collator = s.collator := rfl
@[simp] theorem setLoad_path (l : Load) : (setLoad l s).path = s.path := rfl
@[simp] theorem setLoad_report (l : Load) : (setLoad l s).report = s.report := rfl
@[simp] theorem setLoad_imager (l : Load) : (setLoad l s).imager = s.imager := rfl
@[simp] theorem setLoad_orderOut (l : Load) : (setLoad l s).orderOut = s.orderOut := rfl

/-! ### closeLoad -/

@[simp] theorem closeLoad_pending : (closeLoad s).pending = s.pending := rfl
@[simp] theorem closeLoad_inputs : (closeLoad s).inputs = s.inputs := rfl
@[simp] theorem closeLoad_intake : (closeLoad s).intake = { s.intake with load := none } := rfl
@[simp] theorem closeLoad_orders : (closeLoad s).orders = s.orders := rfl
@[simp] theorem closeLoad_registry : (closeLoad s).registry = s.registry := rfl
@[simp] theorem closeLoad_tables : (closeLoad s).tables = s.tables := rfl
@[simp] theorem closeLoad_counters : (closeLoad s).counters = s.counters := rfl
@[simp] theorem closeLoad_stations : (closeLoad s).stations = s.stations := rfl
@[simp] theorem closeLoad_points : (closeLoad s).points = s.points := rfl
@[simp] theorem closeLoad_sched : (closeLoad s).sched = s.sched := rfl
@[simp] theorem closeLoad_tracker : (closeLoad s).tracker = s.tracker := rfl
@[simp] theorem closeLoad_shelf : (closeLoad s).shelf = s.shelf := rfl
@[simp] theorem closeLoad_collator : (closeLoad s).collator = s.collator := rfl
@[simp] theorem closeLoad_path : (closeLoad s).path = s.path := rfl
@[simp] theorem closeLoad_report : (closeLoad s).report = s.report := rfl
@[simp] theorem closeLoad_imager : (closeLoad s).imager = s.imager := rfl
@[simp] theorem closeLoad_orderOut : (closeLoad s).orderOut = s.orderOut := rfl

/-! ### discardOrders -/

@[simp] theorem discardOrders_pending : (discardOrders s).pending = s.pending := rfl
@[simp] theorem discardOrders_inputs : (discardOrders s).inputs = s.inputs := rfl
@[simp] theorem discardOrders_intake : (discardOrders s).intake = s.intake := rfl
@[simp] theorem discardOrders_orders : (discardOrders s).orders = [] := rfl
@[simp] theorem discardOrders_registry : (discardOrders s).registry = s.registry := rfl
@[simp] theorem discardOrders_tables : (discardOrders s).tables = (s.orders.map (fun o => o.gen)).foldl (fun t b => releaseRef b t) s.tables := rfl
@[simp] theorem discardOrders_counters : (discardOrders s).counters = s.counters := rfl
@[simp] theorem discardOrders_stations : (discardOrders s).stations = s.stations := rfl
@[simp] theorem discardOrders_points : (discardOrders s).points = s.points := rfl
@[simp] theorem discardOrders_sched : (discardOrders s).sched = s.sched := rfl
@[simp] theorem discardOrders_tracker : (discardOrders s).tracker = s.tracker := rfl
@[simp] theorem discardOrders_shelf : (discardOrders s).shelf = s.shelf := rfl
@[simp] theorem discardOrders_collator : (discardOrders s).collator = s.collator := rfl
@[simp] theorem discardOrders_path : (discardOrders s).path = s.path := rfl
@[simp] theorem discardOrders_report : (discardOrders s).report = s.report := rfl
@[simp] theorem discardOrders_imager : (discardOrders s).imager = s.imager := rfl
@[simp] theorem discardOrders_orderOut : (discardOrders s).orderOut = s.orderOut := rfl

/-! ### clearRun -/

@[simp] theorem clearRun_pending : (clearRun s).pending = s.pending := rfl
@[simp] theorem clearRun_inputs : (clearRun s).inputs = s.inputs := rfl
@[simp] theorem clearRun_intake : (clearRun s).intake = s.intake := rfl
@[simp] theorem clearRun_orders : (clearRun s).orders = s.orders := rfl
@[simp] theorem clearRun_registry : (clearRun s).registry = s.registry := rfl
@[simp] theorem clearRun_tables : (clearRun s).tables = s.tables := rfl
@[simp] theorem clearRun_counters : (clearRun s).counters = s.counters := rfl
@[simp] theorem clearRun_stations : (clearRun s).stations = s.stations := rfl
@[simp] theorem clearRun_points : (clearRun s).points = s.points := rfl
@[simp] theorem clearRun_sched : (clearRun s).sched = s.sched := rfl
@[simp] theorem clearRun_tracker : (clearRun s).tracker = s.tracker := rfl
@[simp] theorem clearRun_shelf : (clearRun s).shelf = s.shelf := rfl
@[simp] theorem clearRun_collator : (clearRun s).collator = s.collator := rfl
@[simp] theorem clearRun_path : (clearRun s).path = { s.path with runActive := false, params := none } := rfl
@[simp] theorem clearRun_report : (clearRun s).report = s.report := rfl
@[simp] theorem clearRun_imager : (clearRun s).imager = s.imager := rfl
@[simp] theorem clearRun_orderOut : (clearRun s).orderOut = s.orderOut := rfl

/-! ### clearStop -/

@[simp] theorem clearStop_pending : (clearStop s).pending = s.pending := rfl
@[simp] theorem clearStop_inputs : (clearStop s).inputs = s.inputs := rfl
@[simp] theorem clearStop_intake : (clearStop s).intake = s.intake := rfl
@[simp] theorem clearStop_orders : (clearStop s).orders = s.orders := rfl
@[simp] theorem clearStop_registry : (clearStop s).registry = s.registry := rfl
@[simp] theorem clearStop_tables : (clearStop s).tables = s.tables := rfl
@[simp] theorem clearStop_counters : (clearStop s).counters = s.counters := rfl
@[simp] theorem clearStop_stations : (clearStop s).stations = s.stations := rfl
@[simp] theorem clearStop_points : (clearStop s).points = s.points := rfl
@[simp] theorem clearStop_sched : (clearStop s).sched = s.sched := rfl
@[simp] theorem clearStop_tracker : (clearStop s).tracker = s.tracker := rfl
@[simp] theorem clearStop_shelf : (clearStop s).shelf = s.shelf := rfl
@[simp] theorem clearStop_collator : (clearStop s).collator = s.collator := rfl
@[simp] theorem clearStop_path : (clearStop s).path = { s.path with faultStop := false, stopRecord := none } := rfl
@[simp] theorem clearStop_report : (clearStop s).report = s.report := rfl
@[simp] theorem clearStop_imager : (clearStop s).imager = s.imager := rfl
@[simp] theorem clearStop_orderOut : (clearStop s).orderOut = s.orderOut := rfl

end Sys2Proof.Machine
end

