-- ==== Sys2Proof/Laws/Points.lean ====
section
/-! SUPPORT. Positions and passage points: travel differences, and what a delivery can do. -/

namespace Sys2Proof.Machine

/-! ### Positions (scope file, section 5.2) -/

/-- The travel difference is the signed value of the modular difference. -/
theorem travelDiff_eq (a b : Pos) : travelDiff a b = (a - b).toInt := by
  unfold travelDiff
  rw [BitVec.toInt_eq_toNat_bmod, BitVec.toNat_sub]
  have ha := a.isLt
  have hb := b.isLt
  simp only [Int.bmod]
  omega

theorem travelDiff_self (a : Pos) : travelDiff a a = 0 := by simp [travelDiff_eq]

/-- Travel differences lie from −2^19 to 2^19 − 1. -/
theorem travelDiff_range (a b : Pos) : -524288 ≤ travelDiff a b ∧ travelDiff a b < 524288 := by
  unfold travelDiff
  omega

/-- A position short of a point by 1 to 2^19 − 1 has not passed it. -/
theorem passed_plus {d : Nat} (p : Pos) (h0 : 0 < d) (h : d < 524288) : passed p (p + BitVec.ofNat 20 d) = false := by
  have hp := p.isLt
  simp only [passed, decide_eq_false_iff_not, not_le, travelDiff, BitVec.toNat_add, BitVec.toNat_ofNat]
  omega

/-- "P plus d" for a natural number d. -/
theorem plus_nat (p : Pos) (d : Nat) : plus p (d : Int) = p + BitVec.ofNat 20 d := by
  simp [plus, BitVec.ofInt_natCast]

/-! ### Delivery (R5; logs 3 and 33) -/

/-- Inserting a command adds it once. -/
theorem insertRanked_perm (rank : Instr → Nat) (c : Instr) : (cs : List Instr) → (insertRanked rank c cs).Perm (c :: cs)
  | [] => .refl _
  | d :: ds => by
    unfold insertRanked
    split
    · exact .refl _
    · exact ((insertRanked_perm rank c ds).cons d).trans (.swap c d ds)

/-- Inserting a command keeps the others in their order. -/
theorem insertRanked_sublist (rank : Instr → Nat) (c : Instr) : (cs : List Instr) → cs.Sublist (insertRanked rank c cs)
  | [] => List.nil_sublist _
  | d :: ds => by
    unfold insertRanked
    split
    · exact List.sublist_cons_self c _
    · exact (insertRanked_sublist rank c ds).cons_cons d

/-- The order of ranks is an order of the same commands. -/
theorem inRankOrder_perm (rank : Instr → Nat) (others : List Instr) :
    (cs : List Instr) → (inRankOrder rank cs others).Perm (cs ++ others)
  | [] => .refl _
  | c :: cs => (insertRanked_perm rank c _).trans ((inRankOrder_perm rank others cs).cons c)

/-- It keeps the others in theirs. -/
theorem inRankOrder_sublist (rank : Instr → Nat) (others : List Instr) :
    (cs : List Instr) → others.Sublist (inRankOrder rank cs others)
  | [] => .refl _
  | c :: cs => (inRankOrder_sublist rank others cs).trans (insertRanked_sublist rank c _)

/-- All an operation with passages does beyond itself: it puts the events it brings about before the queue, among the line
changes given. -/
theorem withPassagesAmong_queues (lines : List Instr) (f : State → State) (s : State) :
    ∃ first, first.Perm (eventsDue s.points (f s) ++ lines) ∧ lines.Sublist first
      ∧ withPassagesAmong lines f s = { f s with pending := first ++ (f s).pending } :=
  ⟨_, inRankOrder_perm _ _ _, inRankOrder_sublist _ _ _, rfl⟩

/-- The same with no line changes. -/
theorem withPassages_queues (f : State → State) (s : State) :
    ∃ due, due.Perm (eventsDue s.points (f s)) ∧ withPassages f s = { f s with pending := due ++ (f s).pending } := by
  refine ⟨_, (inRankOrder_perm _ _ _).trans ?_, rfl⟩
  rw [List.append_nil]
  exact .refl _

/-- All a step with its retry does beyond itself: it puts the retry first in the queue where one is due (R39, R135). -/
theorem withRetry_eq (f : State → State) (s : State) : withRetry f s = retried s (f s) := by
  have h : holdEvent s (f s) = true ↔ (f s).intake.held.isSome = true
      ∧ ((f s).path.state ≠ s.path.state ∨ (f s).path.runActive ≠ s.path.runActive
        ∨ (s.intake.held.isSome = true ∧ ((f s).orders ≠ s.orders
          ∨ (f s).registry.map (fun e => (e.set, e.state)) ≠ s.registry.map (fun e => (e.set, e.state))))) := by
    simp only [holdEvent, Bool.and_eq_true, Bool.or_eq_true, decide_eq_true_iff, or_assoc]
    rfl
  unfold withRetry retried
  by_cases hc : holdEvent s (f s) = true
  · simp only [hc, if_true, if_pos (h.1 hc)]
  · simp only [hc, Bool.false_eq_true, if_false, if_neg (fun x => hc (h.2 x))]

/-- A step that leaves the orders, the sets' states, the path state and the run-active flag has no retry. -/
theorem withRetry_none {f : State → State} {s : State} (ho : (f s).orders = s.orders)
    (hr : registryStates (f s).registry = registryStates s.registry) (hp : (f s).path.state = s.path.state)
    (ha : (f s).path.runActive = s.path.runActive) : withRetry f s = f s := by
  have h : holdEvent s (f s) = false := by simp [holdEvent, ho, hr, hp, ha]
  simp [withRetry, h]

/-- Nor has one after which the link is not held. -/
theorem withRetry_free {f : State → State} {s : State} (h : (f s).intake.held = none) : withRetry f s = f s := by
  have h : holdEvent s (f s) = false := by simp [holdEvent, h]
  simp [withRetry, h]

/-- A step with passages and its retry delivers the events it brings about, the retry first (R5, R39). -/
theorem withRetry_withPassages_queues (f : State → State) (s : State) (hf : (f s).pending = s.pending) :
    eventsQueued s.points s (withRetry (withPassages f) s) := by
  obtain ⟨due, hp, he⟩ := withPassages_queues f s
  rw [withRetry_eq, he, hf]
  exact ⟨due, hp, rfl⟩

/-- Where it reaches no point that did not stand reached before, it is the operation alone. -/
theorem withPassages_of_none {f : State → State} {s : State} (h : ∀ q ∈ (f s).points, q.reached = true → q ∈ s.points) :
    withPassages f s = f s := by
  have he : passageEvents s.points (f s) = [] := by
    simpa [passageEvents] using h
  simp [withPassages, withPassagesAmong, he, inRankOrder]

/-- It depends on the operation at the one state alone. -/
theorem withPassages_congr {f g : State → State} {s : State} (h : f s = g s) : withPassages f s = withPassages g s := by
  unfold withPassages withPassagesAmong
  rw [h]

/-- A queue is the line changes at its front and what follows them. -/
theorem linesAhead_append (n : Nat) (queue : List Instr) :
    linesAhead n queue ++ queue.drop (linesAhead n queue).length = queue := by
  have h : linesAhead n queue <+: queue := (List.takeWhile_prefix _).trans (List.take_prefix _ _)
  exact List.prefix_append_drop h |>.symm

/-- They are line changes, at most n. -/
theorem linesAhead_lines (n : Nat) (queue : List Instr) :
    (linesAhead n queue).length ≤ n ∧ ∀ c ∈ linesAhead n queue, isLineChange c = true := by
  refine ⟨(List.takeWhile_prefix _).length_le.trans (by simp), fun c hc => ?_⟩
  exact List.mem_takeWhile_imp hc

/-- The command of a passage event is that event's step. -/
@[simp] theorem passageOf_command (l : DrawerLines) (e : PointEvent) : passageOf (passageCommand l e) = some e := by
  cases e <;> rfl

/-- Every command a passage puts into the queue is a passage event's. -/
theorem passageOf_isSome {before : List Point} {s : State} {c : Instr} (h : c ∈ passageEvents before s) :
    (passageOf c).isSome = true := by
  obtain ⟨q, -, rfl⟩ := List.mem_map.1 h
  simp

/-- The queue has grown by passage events at its front alone (R5). -/
def QueueGrown (s t : State) : Prop :=
  ∃ due, t.pending = due ++ s.pending ∧ ∀ d ∈ due, (passageOf d).isSome = true

theorem QueueGrown.refl (s : State) : QueueGrown s s := ⟨[], rfl, by simp⟩

theorem QueueGrown.trans {a b c : State} (h : QueueGrown a b) (h' : QueueGrown b c) : QueueGrown a c := by
  obtain ⟨d, e, p⟩ := h
  obtain ⟨d', e', p'⟩ := h'
  refine ⟨d' ++ d, by rw [e', e, List.append_assoc], fun x hx => ?_⟩
  rcases List.mem_append.1 hx with hx | hx
  · exact p' x hx
  · exact p x hx

/-- An operation with passages grows the queue so, where the operation itself leaves it. -/
theorem queueGrown_withPassages {f : State → State} {s a : State} (h : (f s).pending = a.pending) :
    QueueGrown a (withPassages f s) :=
  ⟨_, by rw [← h]; rfl, fun _ hd => passageOf_isSome (by simpa using (inRankOrder_perm _ _ _).mem_iff.1 hd)⟩

/-- Where the event's point is placed and reached, the owner acts on it with the point gone. -/
theorem deliver_reached {e : PointEvent} {s : State} (h : pointReached e s) (act : Point → State → State) :
    ∃ q ∈ s.points, q.event = e ∧ q.reached = true ∧ deliver e act s = withPassages (act q) (dropPoint e s) := by
  obtain ⟨q, hq, he, hr⟩ := h
  cases hf : reachedPoint e s with
  | none =>
    have := List.find?_eq_none.1 hf q hq
    simp [he, hr] at this
  | some p =>
    have hp := List.find?_some hf
    simp only [Bool.and_eq_true, decide_eq_true_eq] at hp
    exact ⟨p, List.mem_of_find?_eq_some hf, hp.1, hp.2, by simp [deliver, hf]⟩

/-- Where it is not, nothing happens. -/
theorem deliver_unreached {e : PointEvent} {s : State} (h : ¬pointReached e s) (act : Point → State → State) :
    deliver e act s = s := by
  have : reachedPoint e s = none := by
    refine List.find?_eq_none.2 fun q hq hc => h ⟨q, hq, ?_⟩
    simpa using hc
  simp [deliver, this]

/-- All a delivery can do: nothing, or the act on a reached point of the event, with the point gone. -/
theorem deliver_cases (e : PointEvent) (act : Point → State → State) (s : State) :
    deliver e act s = s
      ∨ ∃ q ∈ s.points, q.event = e ∧ q.reached = true ∧ deliver e act s = withPassages (act q) (dropPoint e s) := by
  by_cases h : pointReached e s
  · exact .inr (deliver_reached h act)
  · exact .inl (deliver_unreached h act)

/-! ### Segments -/

@[simp] theorem counterOf_set (g : Segment) (k : Counter) (c : Counters) : counterOf (setCounter g k c) g = k := by
  cases g <;> rfl

/-- Setting one segment's counter leaves the others. -/
theorem counterOf_set_ne {g h : Segment} (hne : h ≠ g) (k : Counter) (c : Counters) :
    counterOf (setCounter g k c) h = counterOf c h := by
  cases g <;> cases h <;> first | rfl | exact absurd rfl hne

end Sys2Proof.Machine
end

