-- ==== Sys2Proof/Laws/Reports.lean ====
section
/-! SUPPORT. The Report Unit's operations: what a report's joining, a latching and a refusal can do. -/

namespace Sys2Proof.Machine

variable (b : ReportBody) (c : Condition) (u : ReportUnit) (s : State)

/-! ### Sets of conditions -/

theorem conditionIndex_lt : conditionIndex c < 16 := by cases c <;> decide

/-- Distinct conditions have distinct indices. -/
theorem conditionIndex_inj {c d : Condition} (h : conditionIndex c = conditionIndex d) : c = d := by
  cases c <;> cases d <;> first | rfl | exact absurd h (by decide)

/-- A condition is in a set to which another is added where it is that one, or was in it. -/
theorem hasCondition_add (v : BitVec 16) (d : Condition) :
    hasCondition (addCondition v c) d = (hasCondition v d || decide (d = c)) := by
  have h : hasCondition (conditionBit c) d = decide (d = c) := by cases c <;> cases d <;> rfl
  simp only [hasCondition] at h
  simp only [hasCondition, addCondition, BitVec.getLsbD_or, h]

/-- Adding a condition that is in the set changes nothing. -/
theorem addCondition_of_has {v : BitVec 16} {c : Condition} (h : hasCondition v c = true) : addCondition v c = v := by
  have hb : ∀ i : Nat, i < 16 → (conditionBit c).getLsbD i = decide (i = conditionIndex c) := by
    cases c <;> decide
  apply BitVec.eq_of_getLsbD_eq
  intro i hi
  simp only [addCondition, BitVec.getLsbD_or, hb i hi]
  by_cases hc : i = conditionIndex c
  · subst hc
    simpa [hasCondition] using h
  · simp [hc]

/-- Taking named conditions out of a set leaves the others. -/
theorem hasCondition_clear (v n : BitVec 16) : hasCondition (clearNamed v n) c = (hasCondition v c && !hasCondition n c) := by
  have := conditionIndex_lt c
  simp [hasCondition, clearNamed, this]

/-! ### A report joins the queue (R172, R173) -/

/-- All an enqueuing can do: the report at the tail, or REPORT_LOST into the latch. -/
theorem enqueueReport_cases :
    (u.queue.length < reportCapacity ∧ enqueueReport b u = withReports [b] u)
      ∨ (reportCapacity ≤ u.queue.length ∧ enqueueReport b u = { u with latch := addCondition u.latch .reportLost }) := by
  unfold enqueueReport withReports
  split
  · exact .inl ⟨‹_›, rfl⟩
  · exact .inr ⟨by omega, rfl⟩

/-- With room, the report joins the tail. -/
theorem enqueueReport_room {b : ReportBody} {u : ReportUnit} (h : u.queue.length < reportCapacity) :
    enqueueReport b u = withReports [b] u := by
  unfold enqueueReport withReports
  rw [if_pos h]
  rfl

@[simp] theorem enqueueReport_mask : (enqueueReport b u).mask = u.mask := by unfold enqueueReport; split <;> rfl
@[simp] theorem enqueueReport_timeTag : (enqueueReport b u).timeTag = u.timeTag := by unfold enqueueReport; split <;> rfl

/-! ### A condition is latched (R167, R169) -/

@[simp] theorem latchCondition_mask : (latchCondition c u).mask = u.mask := by
  unfold latchCondition; split
  · rfl
  · dsimp only; split <;> simp
@[simp] theorem latchCondition_timeTag : (latchCondition c u).timeTag = u.timeTag := by
  unfold latchCondition; split
  · rfl
  · dsimp only; split <;> simp

/-- With room for its ALERT, a latching is afterLatching. -/
theorem latchCondition_room {c : Condition} {u : ReportUnit} (h : u.queue.length < reportCapacity) :
    latchCondition c u = afterLatching c u := by
  unfold latchCondition afterLatching alertOf
  cases hc : hasCondition u.latch c
  · cases hm : hasCondition u.mask c
    · simp [withReports]
    · simp only [Bool.false_eq_true, if_false, if_true, Bool.not_true, Bool.or_self]
      rw [enqueueReport_room (by exact h)]
  · simp [addCondition_of_has hc, withReports]

/-- A condition's latching latches it. -/
theorem latchCondition_has : hasCondition (latchCondition c u).latch c = true := by
  have hs : ∀ v, hasCondition (addCondition v c) c = true := fun v => by simp [hasCondition_add]
  unfold latchCondition
  split
  · assumption
  · dsimp only
    split
    · unfold enqueueReport
      split
      · exact hs _
      · simp [hasCondition_add]
    · exact hs _

/-! ### The queue grows at its tail, and the latch only grows -/

/-- The report unit has only queued reports stamped with its time tag, and only latched conditions. -/
def Grown (u v : ReportUnit) : Prop :=
  (∃ new, v.queue = u.queue ++ new ∧ ∀ r ∈ new, r.timeTag = u.timeTag) ∧ v.timeTag = u.timeTag ∧ v.mask = u.mask
    ∧ (∀ k, hasCondition u.latch k = true → hasCondition v.latch k = true)
    ∧ (u.queue.length ≤ reportCapacity → v.queue.length ≤ reportCapacity)

theorem Grown.refl : Grown u u := ⟨⟨[], by simp, by simp⟩, rfl, rfl, fun _ h => h, fun h => h⟩

theorem Grown.trans {u v w : ReportUnit} (h : Grown u v) (h' : Grown v w) : Grown u w := by
  obtain ⟨⟨n, hn, ht⟩, ht', hm, hl, hc⟩ := h
  obtain ⟨⟨n', hn', ht''⟩, ht₂, hm', hl', hc'⟩ := h'
  refine ⟨⟨n ++ n', by rw [hn', hn, List.append_assoc], fun r hr => ?_⟩, ht₂.trans ht', hm'.trans hm,
    fun k hk => hl' k (hl k hk), fun h => hc' (hc h)⟩
  rcases List.mem_append.1 hr with h | h
  · exact ht r h
  · exact (ht'' r h).trans ht'

theorem grown_enqueue : Grown u (enqueueReport b u) := by
  rcases enqueueReport_cases b u with ⟨h, e⟩ | ⟨h, e⟩ <;> rw [e]
  · refine ⟨⟨[⟨u.timeTag, b⟩], rfl, by simp⟩, rfl, rfl, fun _ h => h, fun _ => ?_⟩
    simp only [withReports, List.map_cons, List.map_nil, List.length_append, List.length_cons, List.length_nil]
    omega
  · exact ⟨⟨[], by simp, by simp⟩, rfl, rfl, fun k hk => by simp [hasCondition_add, hk], fun h => h⟩

theorem grown_latch : Grown u (latchCondition c u) := by
  unfold latchCondition
  split
  · exact Grown.refl u
  · have h1 : Grown u { u with latch := addCondition u.latch c } :=
      ⟨⟨[], by simp, by simp⟩, rfl, rfl, fun k hk => by simp [hasCondition_add, hk], fun h => h⟩
    dsimp only
    split
    · exact h1.trans (grown_enqueue _ _)
    · exact h1

/-! ### Refusals (R176) -/

/-- A refusal changes the report unit alone. -/
theorem refuse_frame (t : Option Tag) (k : Option RecordKind) (r : RefusalCode) :
    refuse t k r s = { s with report := (refuse t k r s).report } := rfl

theorem refuse_report (t : Option Tag) (k : Option RecordKind) (r : RefusalCode) :
    (refuse t k r s).report = latchCondition .refused (enqueueReport (.refusal t k r) s.report) := rfl

theorem grown_refuse (t : Option Tag) (k : Option RecordKind) (r : RefusalCode) : Grown s.report (refuse t k r s).report :=
  (grown_enqueue _ _).trans (grown_latch _ _)

/-- With room for two reports a refusal is afterRefusal. -/
theorem refuse_room {s : State} (h : reportRoom 2 s) (t : Option Tag) (k : Option RecordKind) (r : RefusalCode) :
    refuse t k r s = afterRefusal t k r s := by
  unfold reportRoom at h
  unfold refuse afterRefusal latch sendReport
  dsimp only
  rw [enqueueReport_room (by omega), latchCondition_room]
  simp only [withReports, List.map_cons, List.map_nil, List.length_append, List.length_cons, List.length_nil]
  omega

/-! ### The words of the statements -/

@[simp] theorem withReports_queue (bs : List ReportBody) :
    (withReports bs u).queue = u.queue ++ bs.map (fun b => ⟨u.timeTag, b⟩) := rfl
@[simp] theorem withReports_latch (bs : List ReportBody) : (withReports bs u).latch = u.latch := rfl
@[simp] theorem withReports_mask (bs : List ReportBody) : (withReports bs u).mask = u.mask := rfl
@[simp] theorem withReports_timeTag (bs : List ReportBody) : (withReports bs u).timeTag = u.timeTag := rfl
@[simp] theorem withReports_nil : withReports [] u = u := by simp [withReports]

/-- Reports appended one run after another. -/
theorem withReports_append (xs ys : List ReportBody) : withReports ys (withReports xs u) = withReports (xs ++ ys) u := by
  simp [withReports]

theorem alertOf_length : (alertOf c u).length ≤ 1 := by unfold alertOf; split <;> simp

/-- A latching with room queues at most its ALERT. -/
theorem afterLatching_length : (afterLatching c u).queue.length ≤ u.queue.length + 1 := by
  have := alertOf_length c u
  simp [afterLatching]
  omega

@[simp] theorem afterLatching_latch : (afterLatching c u).latch = addCondition u.latch c := rfl
@[simp] theorem afterLatching_mask : (afterLatching c u).mask = u.mask := rfl
@[simp] theorem afterLatching_timeTag : (afterLatching c u).timeTag = u.timeTag := rfl

end Sys2Proof.Machine
end

