-- ==== Sys2Proof/Laws/Sets.lean ====
section
/-! SUPPORT. What the operations on sets can do (R44 to R52): one frame for all of them, and what withdrawal, draining
and resolution do to an entry. -/

namespace Sys2Proof.Machine

/-! ### Media generation references (R165) -/

/-- Between two Table Stores only reference counts have changed, and a RETIRING bank may have become FREE. -/
def RefsOnly (t t' : TableStore) : Prop :=
  t' = { t with inactive := t'.inactive, refs0 := t'.refs0, refs1 := t'.refs1 }
    ∧ (t'.inactive = t.inactive ∨ (t.inactive = .retiring ∧ t'.inactive = .free))

theorem RefsOnly.refl (t : TableStore) : RefsOnly t t := ⟨rfl, .inl rfl⟩

theorem RefsOnly.trans {a b c : TableStore} (h : RefsOnly a b) (h' : RefsOnly b c) : RefsOnly a c := by
  obtain ⟨e, i⟩ := h
  obtain ⟨e', i'⟩ := h'
  refine ⟨?_, ?_⟩
  · rw [e', e]
  · rcases i with i | ⟨i1, i2⟩ <;> rcases i' with i' | ⟨i1', i2'⟩
    · exact .inl (i'.trans i)
    · exact .inr ⟨i ▸ i1', i2'⟩
    · exact .inr ⟨i1, i'.trans i2⟩
    · exact .inr ⟨i1, i2'⟩

theorem refsOnly_setRefs (b : Bank) (n : Nat) (t : TableStore) : RefsOnly t (setRefs b n t) := by
  cases b <;> exact ⟨rfl, .inl rfl⟩

/-- All that releasing a reference can do. -/
theorem refsOnly_releaseRef (b : Bank) (t : TableStore) : RefsOnly t (releaseRef b t) := by
  have h := refsOnly_setRefs b (refsOf t b - 1) t
  unfold releaseRef
  dsimp only
  split
  · rename_i hc
    refine h.trans ⟨rfl, .inr ⟨hc.1, rfl⟩⟩
  · exact h

theorem refsOnly_releaseAll (bs : List Bank) (t : TableStore) : RefsOnly t (bs.foldl (fun t b => releaseRef b t) t) := by
  induction bs generalizing t with
  | nil => exact RefsOnly.refl t
  | cons b bs ih => exact (refsOnly_releaseRef b t).trans (ih _)

/-! ### The frame of the operations on sets -/

/-- The collator as a spoil can leave it: as it was, or COLLECTING before and now dumping (R128). -/
def MayDump (s t : State) : Prop :=
  t.collator = s.collator
    ∨ (s.collator.mode = .collecting
        ∧ t.collator = { s.collator with mode := .dumping, dump := true, timer := startedTimer s })

/-- All that an operation on sets can change: orders, registry, references, spoiled flags, the collator by a dump, and
reports. -/
def SetFrame (s t : State) : Prop :=
  t = { s with
      orders := t.orders, registry := t.registry, tables := t.tables, tracker := t.tracker
      collator := t.collator, report := t.report }
    ∧ RefsOnly s.tables t.tables
    ∧ (t.tracker.table.map (fun e => { e with spoiled := none }) = s.tracker.table.map (fun e => { e with spoiled := none })
        ∧ t.tracker.diverter = s.tracker.diverter ∧ t.tracker.line = s.tracker.line)
    ∧ MayDump s t
    ∧ Grown s.report t.report
    ∧ t.registry.map (fun e => e.set) = s.registry.map (fun e => e.set)

theorem SetFrame.refl (s : State) : SetFrame s s :=
  ⟨rfl, RefsOnly.refl _, ⟨rfl, rfl, rfl⟩, .inl rfl, Grown.refl _, rfl⟩

theorem SetFrame.path {s t : State} (h : SetFrame s t) : t.path = s.path := by rw [h.1]

theorem SetFrame.trans {a b c : State} (h : SetFrame a b) (h' : SetFrame b c) : SetFrame a c := by
  have hp := h.path
  obtain ⟨e, r, ⟨t1, t2, t3⟩, d, g, n⟩ := h
  obtain ⟨e', r', ⟨t1', t2', t3'⟩, d', g', n'⟩ := h'
  refine ⟨?_, r.trans r', ⟨t1'.trans t1, t2'.trans t2, t3'.trans t3⟩, ?_, g.trans g', n'.trans n⟩
  · rw [e', e]
  · have ht : startedTimer b = startedTimer a := by unfold startedTimer runParams; rw [hp]
    rcases d with d | ⟨d1, d2⟩ <;> rcases d' with d' | ⟨d1', d2'⟩
    · exact .inl (d'.trans d)
    · exact .inr ⟨d ▸ d1', by rw [d2', d, ht]⟩
    · exact .inr ⟨d1, d'.trans d2⟩
    · rw [d2] at d1'
      exact absurd d1' (by simp)

theorem setFrame_report (s : State) (u : ReportUnit) (h : Grown s.report u) : SetFrame s { s with report := u } :=
  ⟨rfl, RefsOnly.refl _, ⟨rfl, rfl, rfl⟩, .inl rfl, h, rfl⟩

theorem setFrame_latch (c : Condition) (s : State) : SetFrame s (latch c s) := setFrame_report _ _ (grown_latch _ _)

theorem setFrame_send (b : ReportBody) (s : State) : SetFrame s (sendReport b s) := setFrame_report _ _ (grown_enqueue _ _)

/-- A change of entries that keeps their set numbers. -/
theorem setFrame_updateSet (n : SetNumber) (f : SetEntry → SetEntry) (hf : ∀ e, (f e).set = e.set) (s : State) :
    SetFrame s (updateSet n f s) := by
  refine ⟨rfl, RefsOnly.refl _, ⟨rfl, rfl, rfl⟩, .inl rfl, Grown.refl _, ?_⟩
  simp only [updateSet_registry, List.map_map]
  refine List.map_congr_left fun e _ => ?_
  simp only [Function.comp_apply]
  split
  · exact hf e
  · rfl

theorem setFrame_removeOrders (n : SetNumber) (s : State) : SetFrame s (removeOrders n s) :=
  ⟨rfl, refsOnly_releaseAll _ _, ⟨rfl, rfl, rfl⟩, .inl rfl, Grown.refl _, rfl⟩

theorem setFrame_flagSet (n : SetNumber) (r : SpoilReason) (s : State) : SetFrame s (flagSet n r s) := by
  refine ⟨rfl, RefsOnly.refl _, ⟨?_, rfl, rfl⟩, .inl rfl, Grown.refl _, rfl⟩
  simp only [flagSet_tracker, List.map_map]
  refine List.map_congr_left fun e _ => ?_
  simp only [Function.comp_apply]
  split <;> rfl

theorem setFrame_spoilNotice (n : SetNumber) (s : State) : SetFrame s (spoilNotice n s) := by
  unfold spoilNotice testDump
  split
  · rename_i h
    split
    · exact ⟨rfl, RefsOnly.refl _, ⟨rfl, rfl, rfl⟩, .inr ⟨h.1, rfl⟩, Grown.refl _, rfl⟩
    · exact SetFrame.refl s
  · exact SetFrame.refl s

/-- A withdrawal (R44, R46). -/
theorem setFrame_withdrawSet (r : SpoilReason) (own : Bool) (n : SetNumber) (s : State) :
    SetFrame s (withdrawSet r own n s) :=
  (((setFrame_updateSet n (withdrawnEntry r own) (fun _ => rfl) s).trans (setFrame_removeOrders _ _)).trans
    (setFrame_latch _ _)).trans ((setFrame_flagSet _ _ _).trans (setFrame_spoilNotice _ _))

theorem setFrame_fold {α : Type} (f : State → α → State) (hf : ∀ s x, SetFrame s (f s x)) (l : List α) (s : State) :
    SetFrame s (l.foldl f s) := by
  induction l generalizing s with
  | nil => exact SetFrame.refl s
  | cons x l ih => exact (hf s x).trans (ih _)

theorem setFrame_cascade (ns : List SetNumber) (s : State) : SetFrame s (cascade ns s) :=
  setFrame_fold _ (fun _ _ => setFrame_withdrawSet _ _ _ _) _ _

/-- A resolution (R50, R52). -/
theorem setFrame_resolveOne (n : SetNumber) (s : State) : SetFrame s (resolveOne n s) := by
  unfold resolveOne
  split
  · exact SetFrame.refl s
  · split
    · refine ((setFrame_updateSet n _ ?_ s).trans (setFrame_send _ _)).trans (setFrame_latch _ _)
      exact fun _ => rfl
    · split
      · refine ((setFrame_send _ s).trans (setFrame_latch _ _)).trans (setFrame_updateSet n _ ?_ _)
        exact fun _ => rfl
      · exact SetFrame.refl s

/-- The walk over held entries (R51). -/
theorem setFrame_heldWalk (ns : List SetNumber) (s : State) : SetFrame s (heldWalk ns s) := by
  induction ns generalizing s with
  | nil => exact SetFrame.refl s
  | cons n ns ih =>
    unfold heldWalk
    split
    · exact ih s
    · split
      · split
        · exact (setFrame_resolveOne n s).trans (ih _)
        · exact SetFrame.refl s
      · exact ih s

theorem setFrame_walkFrom (n : SetNumber) (s : State) : SetFrame s (walkFrom n s) := by
  unfold walkFrom
  split
  · exact SetFrame.refl s
  · split
    · exact setFrame_heldWalk _ _
    · exact SetFrame.refl s

/-- A drain check (R49). -/
theorem setFrame_drainCheck (n : SetNumber) (s : State) : SetFrame s (drainCheck n s) := by
  unfold drainCheck
  split
  · exact SetFrame.refl s
  · split
    · refine ((setFrame_updateSet n _ ?_ s).trans (setFrame_resolveOne _ _)).trans (setFrame_walkFrom _ _)
      exact fun _ => rfl
    · exact SetFrame.refl s

theorem setFrame_drainChecks (ns : List SetNumber) (s : State) : SetFrame s (drainChecks ns s) :=
  setFrame_fold _ (fun _ _ => setFrame_drainCheck _ _) _ _

/-- A spoil (R44, R47). -/
theorem setFrame_spoilSet (r : SpoilReason) (n : SetNumber) (s : State) : SetFrame s (spoilSet r n s) := by
  unfold spoilSet
  split
  · exact SetFrame.refl s
  · split
    · exact ((setFrame_withdrawSet _ _ _ _).trans (setFrame_cascade _ _)).trans (setFrame_drainChecks _ _)
    · exact SetFrame.refl s

/-- The stranding of a recovery (R45, R48). -/
theorem setFrame_strandSets (handed : List SetNumber) (named : Option SetNumber) (s : State) :
    SetFrame s (strandSets handed named s) := by
  unfold strandSets
  exact ((setFrame_fold _ (fun _ _ => setFrame_withdrawSet _ _ _ _) _ _).trans (setFrame_cascade _ _)).trans
    (setFrame_drainChecks _ _)

/-! ### Entries found -/

/-- The entry found has the set number asked for and stands in the registry. -/
theorem findSet_some {n : SetNumber} {reg : List SetEntry} {e : SetEntry} (h : findSet n reg = some e) :
    e ∈ reg ∧ e.set = n :=
  ⟨List.mem_of_find?_eq_some h, by simpa using List.find?_some h⟩

/-- None is found where none has the set number. -/
theorem findSet_none {n : SetNumber} {reg : List SetEntry} : findSet n reg = none ↔ ∀ e ∈ reg, e.set ≠ n := by
  simp [findSet, List.find?_eq_none]

/-- A changed entry is the one found, where the change keeps set numbers. -/
theorem findSet_update {n : SetNumber} {f : SetEntry → SetEntry} (hf : ∀ e, (f e).set = e.set) (reg : List SetEntry) :
    findSet n (reg.map (fun e => if e.set = n then f e else e)) = (findSet n reg).map f := by
  induction reg with
  | nil => rfl
  | cons e reg ih =>
    unfold findSet at ih ⊢
    simp only [List.map_cons, List.find?_cons]
    by_cases h : e.set = n
    · simp [h, hf]
    · simp [h, ih]

/-- Changing one set's entry leaves the other sets' entries as they are. -/
theorem findSet_update_ne {n m : SetNumber} (hne : m ≠ n) {f : SetEntry → SetEntry} (hf : ∀ e, (f e).set = e.set)
    (reg : List SetEntry) : findSet m (reg.map (fun e => if e.set = n then f e else e)) = findSet m reg := by
  induction reg with
  | nil => rfl
  | cons e reg ih =>
    unfold findSet at ih ⊢
    simp only [List.map_cons, List.find?_cons]
    by_cases h : e.set = n
    · simp [h, hf, ih, Ne.symm hne]
    · simp only [h, if_false, ih]

end Sys2Proof.Machine
end

