-- ==== Sys2Proof/Laws/Stops.lean ====
section
/-! SUPPORT. What entering STOPPED, raising the fault stop and a jam do (R108, R145, R146), and when the halt test is
out of the way (R141). -/

namespace Sys2Proof.Machine

/-- A stop after a latching, with room for its three reports. -/
theorem enterStopped_room {s : State} (h : reportRoom 3 s) (c : Condition) (r : StopRecord) :
    enterStopped r (latch c s) = afterStop c r false s := by
  unfold reportRoom reportCapacity at h
  have hl := afterLatching_length c s.report
  have h0 : latchCondition c s.report = afterLatching c s.report :=
    latchCondition_room (by unfold reportCapacity; omega)
  have h1 : ∀ x, enqueueReport x (afterLatching c s.report) = withReports [x] (afterLatching c s.report) :=
    fun x => enqueueReport_room (by unfold reportCapacity; omega)
  have h2 : ∀ x y, enqueueReport y (withReports [x] (afterLatching c s.report))
      = withReports [x, y] (afterLatching c s.report) := fun x y => by
    rw [enqueueReport_room (by unfold reportCapacity; simp; omega)]
    exact withReports_append _ _ _
  simp [enterStopped, setPathState, pathReport, withPathState, sendReport, strandAll, driveStop, desync, dropPoints,
    latch, jamReport, strandedList, afterStop, stoppedPath, pointsBut, h0, h1, h2, Function.comp_def]

/-- The fault stop raised after a latching, in a path not STOPPED, with room for its three reports. -/
theorem raiseFault_room {s : State} (h : reportRoom 3 s) (hp : s.path.state ≠ .stopped) (c : Condition) (r : StopRecord) :
    raiseFault r (latch c s) = afterStop c r true s := by
  have := enterStopped_room (s := { s with path := { s.path with faultStop := true } }) h c r
  unfold raiseFault
  rw [if_neg (by simpa using hp)]
  refine Eq.trans this ?_
  simp [afterStop, stoppedPath]

/-- The fault stop raised in STOPPED changes its own membership alone. -/
theorem raiseFault_stopped {s : State} (hp : s.path.state = .stopped) (r : StopRecord) :
    raiseFault r s = { s with path := { s.path with faultStop := true } } := by
  unfold raiseFault
  rw [if_pos hp]

/-- A jam in a path not STOPPED, with room for its three reports. -/
theorem jam_room {s : State} (h : reportRoom 3 s) (hp : s.path.state ≠ .stopped) (cause : StopCause) (st : Station)
    (named : Option NamedSheet) (d : Option Int) :
    jam cause st named d s
      = afterStop .jam { cause := cause, station := some st, named := named, deviation := d } true s :=
  raiseFault_room h hp _ _

/-- All that raising the fault stop can change. -/
theorem raiseFault_frame (r : StopRecord) (s : State) :
    ∃ k p t x u, raiseFault r s = { s with sched := k, points := p, tracker := t, path := x, report := u } := by
  unfold raiseFault
  split
  · exact ⟨_, _, _, _, _, rfl⟩
  · exact ⟨_, _, _, _, _, rfl⟩

/-- The path is STOPPED with the fault stop active once the fault stop has been raised. -/
theorem raiseFault_path (r : StopRecord) (s : State) :
    (raiseFault r s).path.state = .stopped ∧ (raiseFault r s).path.faultStop = true := by
  unfold raiseFault
  split
  · exact ⟨‹_›, rfl⟩
  · exact ⟨rfl, rfl⟩

/-! ### The halt test -/

/-- A step whose outcome is not HALTING makes no halt test. -/
theorem withHaltTest_of_ne {f : State → State} {s : State} (h : (f s).path.state ≠ .halting) :
    withHaltTest f s = f s := by
  unfold withHaltTest haltTest
  split
  · rw [if_neg]
    exact fun hc => h hc.1
  · rfl

/-- All that the halt test can do: nothing, or the completion of the halt. -/
theorem withHaltTest_cases (f : State → State) (s : State) :
    withHaltTest f s = f s ∨ ((f s).path.state = .halting ∧ haltTestPasses (f s) = true ∧ withHaltTest f s = haltNow (f s)) := by
  unfold withHaltTest haltTest
  split
  · split
    · exact .inr ⟨by simp_all, by simp_all, rfl⟩
    · exact .inl rfl
  · exact .inl rfl

/-- A step that leaves the tables of sheets, sets and the collator as they are calls for no halt test. -/
theorem withHaltTest_of_kept {f : State → State} {s : State} (ht : (f s).tracker = s.tracker)
    (hr : (f s).sched.ring = s.sched.ring) (hg : (f s).registry = s.registry) (hc : (f s).collator = s.collator) :
    withHaltTest f s = f s := by
  have : haltEvent s (f s) = false := by
    simp [haltEvent, ht, hr, hg, hc]
  simp [withHaltTest, this]

/-- A path is moving exactly in RUNNING and HALTING. -/
theorem pathMoving_iff (p : PathControl) : pathMoving p = true ↔ p.state = .running ∨ p.state = .halting := by
  simp [pathMoving]

end Sys2Proof.Machine
end

