-- ==== Sys2Proof/Laws/Belt.lean ====
section
/-! SUPPORT. What the Pitch Scheduler's operations can do (R63 to R82). -/

namespace Sys2Proof.Machine

/-! ### The ring and its release point (R74, R78) -/

/-- Placing the release point changes the points alone. -/
theorem placeRelease_frame (s : State) : ∃ ps, placeRelease s = { s with points := ps } := by
  unfold placeRelease
  split <;> exact ⟨_, rfl⟩

/-- A joining of the ring changes the ring and the points alone. -/
theorem joinRing_frame (r : RingEntry) (s : State) :
    ∃ ps, joinRing r s = { s with sched := { s.sched with ring := s.sched.ring ++ [r] }, points := ps } := by
  unfold joinRing
  dsimp only
  split
  · obtain ⟨ps, h⟩ := placeRelease_frame { s with sched := { s.sched with ring := s.sched.ring ++ [r] } }
    exact ⟨ps, h⟩
  · exact ⟨_, rfl⟩

/-! ### The pitch commit event (R66, R67) -/

/-- Moving on changes the next pitch and the pitch point alone; every other point stays. -/
theorem moveOn_frame (s : State) :
    ∃ ps k, moveOn s = { s with sched := { s.sched with nextPitch := k }, points := ps }
      ∧ ∀ q ∈ s.points, q.event ≠ .pitch → q ∈ ps := by
  unfold moveOn
  dsimp only
  split
  · exact ⟨_, _, rfl, fun q h _ => h⟩
  · split
    · refine ⟨_, _, rfl, fun q h h2 => ?_⟩
      simp [h, h2]
    · exact ⟨_, _, rfl, fun q h _ => h⟩

/-- A commit event that is due: the decision, then the next boundary. -/
theorem pitchEvent_due {s : State} (h : pointReached .pitch s) (hp : pathMoving s.path = true)
    (hs : s.sched.seam.isSome = true) :
    pitchEvent s = withPassages (fun t => moveOn (commitPitch t)) (dropPoint .pitch s) := by
  obtain ⟨q, _, _, _, hd⟩ := deliver_reached h
    (fun _ s => if pathMoving s.path = true ∧ s.sched.seam.isSome = true then moveOn (commitPitch s) else s)
  unfold pitchEvent
  rw [hd]
  exact withPassages_congr (if_pos ⟨hp, hs⟩)

/-- All that a commit event can change. -/
def CommitFrame (s t : State) : Prop :=
  t = { s with
      orders := t.orders, registry := t.registry, points := t.points, sched := t.sched, tracker := t.tracker
      shelf := t.shelf, imager := t.imager, report := t.report }
    ∧ Grown s.report t.report

theorem CommitFrame.refl (s : State) : CommitFrame s s := ⟨rfl, Grown.refl _⟩

theorem CommitFrame.trans {a b c : State} (h : CommitFrame a b) (h' : CommitFrame b c) : CommitFrame a c := by
  obtain ⟨e, g⟩ := h
  obtain ⟨e', g'⟩ := h'
  exact ⟨by rw [e', e], g.trans g'⟩

theorem commitFrame_joinRing (r : RingEntry) (s : State) : CommitFrame s (joinRing r s) := by
  obtain ⟨ps, h⟩ := joinRing_frame r s
  rw [h]
  exact ⟨rfl, Grown.refl _⟩

theorem commitFrame_placeFeedStart (id : SheetId) (src : Source) (s : State) : CommitFrame s (placeFeedStart id src s) :=
  ⟨rfl, Grown.refl _⟩

/-- A new feed (R72). -/
theorem commitFrame_commitFeed (o : Order) (k : Nat) (s : State) : CommitFrame s (commitFeed o k s) := by
  unfold commitFeed
  refine CommitFrame.trans ?_ (commitFrame_placeFeedStart _ _ _)
  refine CommitFrame.trans (CommitFrame.trans ?_ (commitFrame_joinRing _ _)) ⟨rfl, Grown.refl _⟩
  exact ⟨rfl, Grown.refl _⟩

/-- A refeed (R73). -/
theorem commitFrame_commitRefeed (id : SheetId) (k : Nat) (s : State) : CommitFrame s (commitRefeed id k s) := by
  unfold commitRefeed
  split
  · exact CommitFrame.refl s
  · rename_i e _
    dsimp only
    refine CommitFrame.trans ?_ (commitFrame_placeFeedStart _ _ _)
    cases e.side2 with
    | none =>
      refine CommitFrame.trans ?_ (commitFrame_joinRing _ _)
      exact ⟨rfl, Grown.refl _⟩
    | some h =>
      refine CommitFrame.trans (CommitFrame.trans ?_ (commitFrame_joinRing _ _)) ⟨rfl, Grown.refl _⟩
      exact ⟨rfl, Grown.refl _⟩

/-- A BLANK pitch (R70). -/
theorem commitFrame_blankPitch (s : State) : CommitFrame s (blankPitch s) := by
  have hl : ∀ (p : Bool) (c : Condition) (t : State), CommitFrame t (if p then latch c t else t) := fun p c t => by
    cases p
    · exact CommitFrame.refl t
    · exact ⟨rfl, grown_latch _ _⟩
  have h1 : CommitFrame s { s with sched := { s.sched with blanks := min blankLimit (s.sched.blanks + 1) } } :=
    ⟨rfl, Grown.refl _⟩
  exact (h1.trans (hl _ _ _)).trans (hl _ _ _)

/-- The three steps of a commit event (R67). -/
theorem commitFrame_commitPitch (s : State) : CommitFrame s (commitPitch s) := by
  have hg : ∀ t : State, CommitFrame t (lowerGaps t) := fun t => ⟨rfl, Grown.refl _⟩
  unfold commitPitch
  dsimp only
  split
  · exact (commitFrame_blankPitch _).trans (hg _)
  · have h := fun o => (commitFrame_commitFeed o s.sched.nextPitch s).trans (hg _)
    split
    · exact (h _).trans ⟨rfl, Grown.refl _⟩
    · exact h _
  · have h := fun id => (commitFrame_commitRefeed id s.sched.nextPitch s).trans (hg _)
    split
    · exact (h _).trans ⟨rfl, Grown.refl _⟩
    · exact h _

/-- An operation of the frame, with the passage events it brings about before the queue (R5). -/
theorem commitFrame_withPassages {f : State → State} {s a : State} (h : CommitFrame a (f s)) :
    CommitFrame { a with pending := (withPassages f s).pending } (withPassages f s) ∧ QueueGrown a (withPassages f s) := by
  refine ⟨⟨?_, h.2⟩, queueGrown_withPassages (by rw [h.1])⟩
  unfold withPassages withPassagesAmong
  dsimp only
  rw [h.1]

/-- Every commit event, beside the passage events it puts before the queue (R5, R66, R67). -/
theorem commitFrame_pitchEvent (s : State) :
    CommitFrame { s with pending := (pitchEvent s).pending } (pitchEvent s) ∧ QueueGrown s (pitchEvent s) := by
  have hd : CommitFrame s (dropPoint .pitch s) := ⟨rfl, Grown.refl _⟩
  have hm : ∀ t : State, CommitFrame t (moveOn t) := fun t => by
    obtain ⟨ps, k, h, _⟩ := moveOn_frame t
    rw [h]
    exact ⟨rfl, Grown.refl _⟩
  rcases deliver_cases .pitch
    (fun _ s => if pathMoving s.path = true ∧ s.sched.seam.isSome = true then moveOn (commitPitch s) else s) s
    with h | ⟨q, _, _, _, h⟩
  · unfold pitchEvent
    rw [h]
    exact ⟨CommitFrame.refl s, QueueGrown.refl s⟩
  · unfold pitchEvent
    rw [h]
    refine commitFrame_withPassages ?_
    split
    · exact hd.trans ((commitFrame_commitPitch _).trans (hm _))
    · exact hd

/-! ### The seam (R63, R64) -/

/-- The seam reference taken where the seam offset is above 0: both belt points placed, neither reached. -/
theorem takeSeam_ahead {s : State} {b : BeltEntry} (hb : s.tables.belt = some b) (h0 : 0 < b.seamOffset)
    (h1 : b.seamOffset < 524288) (h2 : 0 < b.revolution) (h3 : b.revolution + b.seamTolerance < 524288) :
    takeSeam s.counters.belt.position s = { s with
      sched := { s.sched with seam := some s.counters.belt.position, nextPitch := 0 }
      points := pointsBut isBeltPoint s.points
        ++ [⟨.belt, s.counters.belt.position + BitVec.ofNat 20 (b.revolution + b.seamTolerance), .seamWatch, false⟩,
            ⟨.belt, s.counters.belt.position + BitVec.ofNat 20 b.seamOffset, .pitch, false⟩] } := by
  have hbe : beltEntry s.tables = b := by simp [beltEntry, hb]
  have e1 := passed_plus s.counters.belt.position h0 h1
  have e2 := passed_plus s.counters.belt.position (d := b.revolution + b.seamTolerance) (by omega) h3
  have hf : (s.points.filter (fun q => !decide (q.event = .seamWatch))).filter (fun q => !decide (q.event = .pitch))
      = pointsBut isBeltPoint s.points := by
    simp only [pointsBut, List.filter_filter]
    congr 1
    funext q
    cases q.event <;> simp [isBeltPoint]
  have hw : withPassages
      (placePoint .belt (plus s.counters.belt.position ((b.revolution + b.seamTolerance : Nat) : Int)) .seamWatch)
      { s with sched := { s.sched with seam := some s.counters.belt.position, nextPitch := 0 } }
      = placePoint .belt (plus s.counters.belt.position ((b.revolution + b.seamTolerance : Nat) : Int)) .seamWatch
        { s with sched := { s.sched with seam := some s.counters.belt.position, nextPitch := 0 } } := by
    refine withPassages_of_none fun q hq hr => ?_
    simp only [placePoint_points, plus_nat, segPos, counterOf, e2, List.mem_append, List.mem_singleton] at hq
    rcases hq with hq | rfl
    · exact (List.mem_filter.1 hq).1
    · simp at hr
  simp only [takeSeam, hbe, hw]
  generalize ht : placePoint .belt (plus s.counters.belt.position (b.seamOffset : Int)) .pitch
    (placePoint .belt (plus s.counters.belt.position ((b.revolution + b.seamTolerance : Nat) : Int)) .seamWatch
      { s with sched := { s.sched with seam := some s.counters.belt.position, nextPitch := 0 } }) = t
  have htt : t = { s with
      sched := { s.sched with seam := some s.counters.belt.position, nextPitch := 0 }
      points := pointsBut isBeltPoint s.points
        ++ [⟨.belt, s.counters.belt.position + BitVec.ofNat 20 (b.revolution + b.seamTolerance), .seamWatch, false⟩,
            ⟨.belt, s.counters.belt.position + BitVec.ofNat 20 b.seamOffset, .pitch, false⟩] } := by
    rw [← ht]
    simp only [placePoint, dropPoint, dropPoints, plus_nat, segPos, counterOf, e1, e2, List.filter_append, hf]
    simp
  have hn : ¬pointReached .pitch t := by
    rw [htt]
    rintro ⟨q, hq, he, hr⟩
    simp only [List.mem_append, List.mem_cons, List.not_mem_nil, or_false] at hq
    rcases hq with hq | rfl | rfl
    · simp [pointsBut, he, isBeltPoint] at hq
    · simp at hr
    · simp at hr
  unfold pitchEvent
  rw [deliver_unreached hn, htt]

/-! ### Flushes (R82, R110, R119, R120) -/

/-- What a flush of the scheduler leaves. -/
theorem flushScheduler_eq (s : State) :
    flushScheduler s = { s with
      sched := { s.sched with
        seam := none, nextPitch := 0, ring := [], gap1 := 0, gap2 := 0, gateOpen := false, clutches := Clutches.released }
      points := (s.points.filter (fun q => !isSchedulerPoint q.event)).filter (fun q => !isBeltPoint q.event)
      imager := { s.imager with out := s.imager.out ++ [ringFlushFrame] } } := rfl

/-- What a flush of the sheets leaves. -/
theorem flushSheets_eq (s : State) :
    flushSheets s = { s with
      tracker := { table := [], diverter := .free, line := .prg }
      shelf := []
      sched := { s.sched with reservation := 0 }
      points := s.points.filter (fun q => !isSheetPoint q.event)
      tables := (s.tracker.table.map (fun e => e.gen)).foldl (fun t b => releaseRef b t) s.tables } := rfl

/-- Resampling and the two flushes leave no passage point. -/
theorem no_point_left (ps : List Point) :
    (((ps.filter (fun q => !isDebounce q.event)).filter (fun q => !isSheetPoint q.event)).filter
      (fun q => !isSchedulerPoint q.event)).filter (fun q => !isBeltPoint q.event) = [] := by
  simp only [List.filter_eq_nil_iff, List.mem_filter]
  rintro q ⟨⟨⟨_, h1⟩, h2⟩, h3⟩
  cases he : q.event <;> simp_all [isDebounce, isSheetPoint, isSchedulerPoint, isBeltPoint]

end Sys2Proof.Machine
end

