-- ==== Sys2Proof/Laws/Intake.lean ====
section
/-! SUPPORT. How a record comes to be taken (R157, R179, R180). -/

namespace Sys2Proof.Machine

/-- On an idle link a record is taken at once. -/
theorem intake_idle {s : State} (h : linkIdle s) (kind : Byte) (tag : Tag) (body : List Byte) (take : State → State) :
    intake kind tag body take s = take s := by
  obtain ⟨h1, h2, h3⟩ := h
  simp [intake, h1, h2, h3]

/-- While the link is held no frame has its turn. -/
theorem turnDue_held {s : State} (h : s.intake.held.isSome = true) : turnDue s = [] := by
  obtain ⟨r, hr⟩ := Option.isSome_iff_exists.1 h
  simp [turnDue, hr]

/-- Nor where there is no frame. -/
theorem turnDue_empty {s : State} (h : s.intake.rx.frames = []) : turnDue s = [] := by
  unfold turnDue
  rw [h]
  cases s.intake.held <;> rfl

theorem nextTurn_held {s : State} (h : s.intake.held.isSome = true) : nextTurn s = s := by simp [nextTurn, turnDue_held h]

theorem nextTurn_empty {s : State} (h : s.intake.rx.frames = []) : nextTurn s = s := by simp [nextTurn, turnDue_empty h]

/-- A record command is the command of its own kind, tag and body (R180). -/
theorem recordOf_recordCommand (level : InputLine → Wire) (kind : Byte) (tag : Tag) (body : List Byte) :
    recordOf (recordCommand level kind tag body) = some (kind, tag, body) := by
  have hk : ∀ n : Nat, n < 256 → kind.toNat = n → kind = BitVec.ofNat 8 n := fun n _ h => by
    rw [← h]
    simp
  unfold recordCommand
  split
  · rename_i h
    have hn : ¬(1 ≤ kind.toNat ∧ kind.toNat ≤ 16) := by
      rintro ⟨h1, h2⟩
      generalize kind.toNat = n at h h1 h2
      interval_cases n <;> simp [recordKindOf] at h
    simp only [recordOf, if_neg hn]
  all_goals
    rename_i h
    unfold recordKindOf at h
    split at h <;> simp only [Option.some.injEq, reduceCtorEq] at h
    rename_i hn
    rw [hk _ (by decide) hn]
  all_goals
    first
    | rfl
    | (rcases body with _ | ⟨o, rest⟩
       · rfl
       · dsimp only
         split
         · rename_i ho
           rw [ho]
           rfl
         · split
           · rename_i ho
             rw [ho]
             rfl
           · rfl)

/-- The turn of a frame takes it. -/
theorem takesFrame_turnCommand (s : State) (f : Frame) : takesFrame (turnCommand s f) f := by
  unfold takesFrame turnCommand
  split
  · rename_i h
    rw [h]
    exact recordOf_recordCommand _ _ _ _
  · rename_i h
    rw [h]

/-- The turn that a free link has due takes the frame at its head (R39, R179). -/
theorem headTurn_turnDue {s : State} (h : s.intake.held = none) : headTurn s.intake.rx.frames (turnDue s) := by
  unfold turnDue headTurn
  rw [h]
  split
  · rename_i hf
    rw [hf]
  · rename_i f rest hf
    rw [hf]
    exact ⟨_, rfl, takesFrame_turnCommand s f⟩

/-- All that an arrival can do: the buffer changes, and the turn of a frame it puts at the head of a free link's empty buffer
stands before the queue (R179). -/
theorem arrive_cases (f : Receiver → Receiver) (s : State) :
    ∃ turn, (s.intake.held = none ∧ s.intake.rx.frames = [] → headTurn (f s.intake.rx).frames turn)
      ∧ (¬(s.intake.held = none ∧ s.intake.rx.frames = []) → turn = [])
      ∧ arrive f s = { s with pending := turn ++ s.pending, intake := { s.intake with rx := f s.intake.rx } } := by
  refine ⟨_, fun h => ?_, fun h => ?_, rfl⟩
  · rw [if_pos h.2]
    exact headTurn_turnDue (s := withReceiver (f s.intake.rx) s) h.1
  · split
    · rename_i hf
      have hh : s.intake.held.isSome = true := by
        cases hd : s.intake.held with
        | none => exact absurd ⟨hd, hf⟩ h
        | some _ => rfl
      exact turnDue_held (s := withReceiver (f s.intake.rx) s) hh
    · rfl

/-- On a held link, the buffer alone. -/
theorem arrive_held {s : State} (h : s.intake.held.isSome = true) (f : Receiver → Receiver) :
    arrive f s = withReceiver (f s.intake.rx) s := by
  simp [arrive, turnDue_held (s := withReceiver (f s.intake.rx) s) h]
  rfl

/-- On a held link a record's bytes arrive and wait. -/
theorem intake_held {s : State} (h : s.intake.held.isSome = true) (kind : Byte) (tag : Tag) (body : List Byte)
    (take : State → State) :
    intake kind tag body take s = withReceiver (receiveBytes s.intake.rx (recordFrame kind tag body)) s := by
  simp [intake, h, arrive_held h]

/-- All that a record command can do: the record is taken, from an idle link or from the head of the buffer, the next frame then
having its turn, or its bytes arrive and wait. -/
theorem intake_cases (kind : Byte) (tag : Tag) (body : List Byte) (take : State → State) (s : State) :
    (linkIdle s ∧ intake kind tag body take s = take s)
      ∨ (s.intake.held = none
          ∧ ∃ f rest, s.intake.rx.frames = f :: rest ∧ frameFields f = some (kind, tag, body)
            ∧ intake kind tag body take s = nextTurn (take (withReceiver { s.intake.rx with frames := rest } s)))
      ∨ intake kind tag body take s = arrive (fun rx => receiveBytes rx (recordFrame kind tag body)) s := by
  unfold intake
  dsimp only
  split
  · exact .inr (.inr rfl)
  · rename_i hh
    have hh' : s.intake.held = none := by simpa using hh
    split
    · rename_i hf
      split
      · rename_i hc
        exact .inl ⟨⟨hh', hf, by simpa using hc⟩, rfl⟩
      · exact .inr (.inr rfl)
    · rename_i f rest hf
      split
      · rename_i he
        exact .inr (.inl ⟨hh', f, rest, hf, he, rfl⟩)
      · exact .inr (.inr rfl)

/-- With no load open, nothing is interrupted. -/
@[simp] theorem interrupt_none {s : State} (h : s.intake.load = none) (tag : Tag) : interrupt tag s = s := by
  simp [interrupt, h]

/-- All that an interruption can change: the load, a MEDIA load's bank state, and the report unit (R157, R163). -/
theorem interrupt_some {s : State} {l : Load} (h : s.intake.load = some l) (tag : Tag) :
    interrupt tag s = { s with
      intake := { s.intake with load := none }
      tables := if l.buffer = .media then { s.tables with inactive := .free } else s.tables
      report := enqueueReport (.table (loadTable l) (.discarded .sequence) tag)
        (latchCondition .loadSequence s.report) } := by
  unfold interrupt
  rw [h]
  simp only [dropLoad, h]
  cases l.buffer <;> simp [sendReport, latch]

/-- A record of a kind other than the load records, taken at once with no load open, acts. -/
theorem plainRecord_ready {s : State} (h : recordReady s) (kind : RecordKind) (tag : Tag) (body : List Byte)
    (act : State → State) : plainRecord kind tag body act s = act s := by
  unfold plainRecord
  rw [intake_idle h.1, interrupt_none h.2]

/-- A bodiless record taken at once acts. -/
theorem bodilessRecord_idle {s : State} (h : linkIdle s) (kind : RecordKind) (tag : Tag) (act : State → State) :
    bodilessRecord kind tag [] act s = act s := by
  unfold bodilessRecord
  rw [intake_idle h]
  simp

/-- A bodiless record with a body is refused with BAD_FIELD (R180). -/
theorem bodilessRecord_long {s : State} (h : recordReady s) (kind : RecordKind) (tag : Tag) {body : List Byte}
    (hb : body ≠ []) (act : State → State) :
    bodilessRecord kind tag body act s = refuse (some tag) (some kind) .badField s := by
  unfold bodilessRecord
  rw [intake_idle h.1, interrupt_none h.2]
  simp [hb]

end Sys2Proof.Machine
end

