-- ==== Sys2Proof/Laws/Links.lean ====
section
/-! SUPPORT. The receive buffer: what one byte, a gap and a rescan can do (R179, R181). -/

namespace Sys2Proof.Machine

/-- One byte raises the bytes in the buffer by at most one, and by none where it is full. -/
theorem receiveByte_used (rx : Receiver) (b : Byte) :
    receiverUsed (receiveByte rx b) ≤ receiverUsed rx + 1
      ∧ (receiveCapacity ≤ receiverUsed rx → receiverUsed (receiveByte rx b) = receiverUsed rx) := by
  obtain ⟨frames, collecting, gap⟩ := rx
  unfold receiveByte
  cases collecting with
  | none =>
    have hs : ∀ full, receiverUsed ⟨frames, some (collectStart full b), 0⟩
        = receiverUsed ⟨frames, none, gap⟩ + (if full = true then 0 else 1) := fun full => by
      cases full <;> simp [receiverUsed, collectStart]
    dsimp only
    split
    · rw [hs]
      by_cases hc : receiveCapacity ≤ receiverUsed ⟨frames, none, gap⟩ <;> simp [hc]
    · exact ⟨by omega, fun _ => rfl⟩
  | some c =>
    have hu : receiverUsed ⟨frames, some c, gap⟩ = (frames.map (fun f => f.bytes.length)).sum + c.bytes.length := by
      simp [receiverUsed]
    have hd : ∀ c' : Collecting, receiverUsed ⟨frames ++ [collectedFrame c'], none, 0⟩
        = (frames.map (fun f => f.bytes.length)).sum + c'.bytes.length := fun c' => by simp [receiverUsed, collectedFrame]
    have hk : ∀ c' : Collecting, receiverUsed ⟨frames, some c', 0⟩
        = (frames.map (fun f => f.bytes.length)).sum + c'.bytes.length := fun c' => by simp [receiverUsed]
    dsimp only
    by_cases hc : receiveCapacity ≤ receiverUsed ⟨frames, some c, gap⟩
    · have hl : (collectByte (decide (receiveCapacity ≤ receiverUsed ⟨frames, some c, gap⟩)) b c).bytes.length
          = c.bytes.length := by simp [collectByte, hc]
      split
      · rw [hd, hl, hu]
        omega
      · rw [hk, hl, hu]
        omega
    · have hl : (collectByte (decide (receiveCapacity ≤ receiverUsed ⟨frames, some c, gap⟩)) b c).bytes.length
          = c.bytes.length + 1 := by simp [collectByte, hc]
      split
      · rw [hd, hl, hu]
        omega
      · rw [hk, hl, hu]
        omega

/-- The buffer never holds more than its capacity. -/
theorem receiveByte_bounded {rx : Receiver} (h : receiverUsed rx ≤ receiveCapacity) (b : Byte) :
    receiverUsed (receiveByte rx b) ≤ receiveCapacity := by
  have := receiveByte_used rx b
  by_cases hc : receiveCapacity ≤ receiverUsed rx
  · rw [this.2 hc]
    exact h
  · omega

theorem receiveBytes_bounded (bs : List Byte) {rx : Receiver} (h : receiverUsed rx ≤ receiveCapacity) :
    receiverUsed (receiveBytes rx bs) ≤ receiveCapacity := by
  induction bs generalizing rx with
  | nil => exact h
  | cons b bs ih => exact ih (receiveByte_bounded h b)

/-- A gap moves no byte. -/
theorem receiveGap_used (rx : Receiver) : receiverUsed (receiveGap rx) = receiverUsed rx := by
  obtain ⟨frames, collecting, gap⟩ := rx
  cases collecting <;> simp [receiveGap, receiverUsed, collectedFrame]

theorem receiveGapAt_used (g : Nat) (rx : Receiver) : receiverUsed (receiveGapAt g rx) = receiverUsed rx := by
  rw [← receiveGap_used rx]
  unfold receiveGapAt
  split
  · rfl
  · exact (receiveGap_used rx).symm

theorem receiveElapse_used (d : Nat) (rx : Receiver) : receiverUsed (receiveElapse d rx) = receiverUsed rx := by
  unfold receiveElapse
  split
  · exact receiveGapAt_used _ _
  · rfl

/-- The frames already in the buffer stay at its head, whatever bytes arrive. -/
theorem receiveByte_frames (rx : Receiver) (b : Byte) : ∃ more, (receiveByte rx b).frames = rx.frames ++ more := by
  unfold receiveByte
  dsimp only
  split
  · split <;> exact ⟨[], by simp⟩
  · split
    · exact ⟨_, rfl⟩
    · exact ⟨[], by simp⟩

theorem receiveBytes_frames (bs : List Byte) (rx : Receiver) : ∃ more, (receiveBytes rx bs).frames = rx.frames ++ more := by
  induction bs generalizing rx with
  | nil => exact ⟨[], by simp [receiveBytes]⟩
  | cons b bs ih =>
    obtain ⟨m, h⟩ := receiveByte_frames rx b
    obtain ⟨m', h'⟩ := ih (receiveByte rx b)
    exact ⟨m ++ m', by rw [← List.append_assoc, ← h, ← h']; rfl⟩

/-- Bytes raise the bytes in the buffer by at most their number. -/
theorem receiveBytes_used (bs : List Byte) (rx : Receiver) : receiverUsed (receiveBytes rx bs) ≤ receiverUsed rx + bs.length := by
  induction bs generalizing rx with
  | nil => exact Nat.le_refl _
  | cons b bs ih =>
    have h := (receiveByte_used rx b).1
    have h' := ih (receiveByte rx b)
    show receiverUsed (receiveBytes (receiveByte rx b) bs) ≤ _
    simp only [List.length_cons]
    omega

/-- Bytes judged again take no more room than they took. -/
theorem rescanBytes_used (rx : Receiver) (bs : List Byte) (broken : Bool) :
    receiverUsed (rescanBytes rx bs broken) ≤ receiverUsed rx + bs.length := by
  unfold rescanBytes
  split
  · rw [receiveGap_used]
    exact receiveBytes_used bs rx
  · exact receiveBytes_used bs rx

theorem rescanFrame_used (rx : Receiver) (f : Frame) : receiverUsed (rescanFrame rx f) ≤ receiverUsed rx + f.bytes.length := by
  unfold rescanFrame
  split
  · simp [receiverUsed]
    omega
  · exact rescanBytes_used _ _ _

theorem rescanFrames_used (fs : List Frame) (rx : Receiver) :
    receiverUsed (fs.foldl rescanFrame rx) ≤ receiverUsed rx + (fs.map (fun f => f.bytes.length)).sum := by
  induction fs generalizing rx with
  | nil => simp
  | cons f fs ih =>
    have h := rescanFrame_used rx f
    have h' := ih (rescanFrame rx f)
    simp only [List.foldl_cons, List.map_cons, List.sum_cons]
    omega

theorem rescanPartial_used (rx : Receiver) (c : Collecting) :
    receiverUsed (rescanPartial rx c) ≤ receiverUsed rx + c.bytes.length := by
  unfold rescanPartial
  split
  · rename_i h
    simp [receiverUsed, h]
  · exact rescanBytes_used _ _ _

/-- All that a rescan can do to the room: it takes no more than the failed frame, the later frames and the frame being
collected took (R179, R181). -/
theorem rescan_used (failed : Frame) (rest : List Frame) (collecting : Option Collecting) (gap : Nat) :
    receiverUsed (rescan failed rest collecting gap) ≤ receiverUsed ⟨failed :: rest, collecting, gap⟩ := by
  have h1 := rescanBytes_used Receiver.reset (bytesAfterSync failed) failed.broken
  have h2 := rescanFrames_used rest
    (rescanBytes Receiver.reset (bytesAfterSync failed) failed.broken)
  have h3 : (bytesAfterSync failed).length ≤ failed.bytes.length := by
    unfold bytesAfterSync
    split <;> simp
  have h0 : receiverUsed Receiver.reset = 0 := rfl
  unfold rescan
  rw [receiveGapAt_used]
  cases collecting with
  | none =>
    simp only [receiverUsed, List.map_cons, List.sum_cons, Option.map_none, Option.getD_none] at *
    omega
  | some c =>
    have h4 := rescanPartial_used
      (rest.foldl rescanFrame (rescanBytes Receiver.reset (bytesAfterSync failed) failed.broken)) c
    simp only [receiverUsed, List.map_cons, List.sum_cons, Option.map_some, Option.getD_some] at *
    omega

/-- All that the passing of time does to the buffer (R179): nothing once the gap is longer than 2 ms; else the gap counts, and
a frame being collected ends where it becomes longer. -/
theorem receiveElapse_eq (d : Nat) (rx : Receiver) : receiveElapse d rx = gapAfter d rx := by
  obtain ⟨frames, collecting, gap⟩ := rx
  unfold receiveElapse gapAfter receiveGapAt receiveGap longestGap
  by_cases h : gap ≤ 2
  · by_cases hd : gap + d ≤ 2
    · have h' : ¬(2 < min (gap + d) (2 + 1)) := by omega
      have h'' : ¬(2 < gap) := by omega
      have hm : min (gap + d) (2 + 1) = gap + d := by omega
      simp [h, hd, h'', hm, show ¬(2 < gap + d) by omega]
    · have hm : min (gap + d) (2 + 1) = 3 := by omega
      cases collecting <;> simp [h, hd, hm, collectedFrame, show ¬(2 < gap) by omega]
  · simp [h, show 2 < gap by omega]

/-- A frame being collected has seen no gap of more than 2 ms, whatever bytes and time come. -/
theorem receiveByte_gap {rx : Receiver} (h : rx.collecting.isSome = true → rx.gap ≤ 2) (b : Byte) :
    (receiveByte rx b).collecting.isSome = true → (receiveByte rx b).gap ≤ 2 := by
  unfold receiveByte
  dsimp only
  split
  · split
    · simp
    · exact h
  · split <;> simp

theorem receiveBytes_gap (bs : List Byte) {rx : Receiver} (h : rx.collecting.isSome = true → rx.gap ≤ 2) :
    (receiveBytes rx bs).collecting.isSome = true → (receiveBytes rx bs).gap ≤ 2 := by
  induction bs generalizing rx with
  | nil => exact h
  | cons b bs ih => exact ih (receiveByte_gap h b)

theorem receiveGapAt_gap (g : Nat) (rx : Receiver) :
    (receiveGapAt g rx).collecting.isSome = true → (receiveGapAt g rx).gap ≤ 2 := by
  unfold receiveGapAt longestGap
  by_cases hg : 2 < g
  · cases hc : rx.collecting <;> simp [hg, hc, receiveGap]
  · simp only [hg, if_false]
    omega

/-- While hunting, bytes that are no sync byte are discarded. -/
theorem receiveBytes_hunting (bs : List Byte) (h : ∀ b ∈ bs, b ≠ orderSync) {rx : Receiver} (hc : rx.collecting = none) :
    receiveBytes rx bs = rx := by
  induction bs with
  | nil => rfl
  | cons b bs ih =>
    have hb : receiveByte rx b = rx := by
      unfold receiveByte
      simp only [hc]
      rw [if_neg (h b (by simp))]
    show receiveBytes (receiveByte rx b) bs = rx
    rw [hb]
    exact ih fun x hx => h x (by simp [hx])

end Sys2Proof.Machine
end

