-- ==== Sys2Proof/Laws/Lines.lean ====
section
/-! SUPPORT. What the passing of time can do, and a collator fault (R127, R130, R145). -/

namespace Sys2Proof.Machine

/-- The turn of a broken frame is BAD_FRAME. -/
theorem turnCommand_broken (s : State) {f : Frame} (h : f.broken = true) : turnCommand s f = .badFrame := by
  have hf : frameFields f = none := by
    unfold frameFields
    split
    · simp [frameGood, h]
    · rfl
  simp [turnCommand, hf]

/-- Time leaves the frames, but for a broken one behind them where a frame being collected ends (R179). -/
theorem gapAfter_frames (d : Nat) (rx : Receiver) :
    (gapAfter d rx).frames = rx.frames ∨ ∃ f, f.broken = true ∧ (gapAfter d rx).frames = rx.frames ++ [f] := by
  unfold gapAfter
  split
  · exact .inl rfl
  · split
    · exact .inl rfl
    · split
      · exact .inl rfl
      · exact .inr ⟨_, rfl, rfl⟩

/-- The clocks counting d ms. -/
theorem elapse_eq (d : Nat) (s : State) : elapse d s = clocksAfter d s := by
  have ht : ∀ t : State, t.intake = s.intake →
      (if s.intake.rx.frames = [] then turnDue (withReceiver (gapAfter d s.intake.rx) t) else [])
        = if s.intake.held = none ∧ s.intake.rx.frames = [] ∧ (gapAfter d s.intake.rx).frames ≠ [] then [.badFrame] else [] := by
    intro t hi
    by_cases hf : s.intake.rx.frames = []
    · cases hh : s.intake.held with
      | some r => simp [turnDue_held (s := withReceiver (gapAfter d s.intake.rx) t) (by simp [hi, hh])]
      | none =>
        rcases gapAfter_frames d s.intake.rx with hg | ⟨f, hb, hg⟩
        · simp [turnDue_empty (s := withReceiver (gapAfter d s.intake.rx) t) (by simp [hg, hf]), hg, hf]
        · simp [turnDue, hi, hh, hg, hf, turnCommand_broken _ hb]
    · simp [hf]
  unfold elapse clocksAfter arrive
  rw [← ht { s with
    report := { s.report with timeTag := s.report.timeTag + BitVec.ofNat 16 d }
    path := { s.path with silence := s.path.silence + d }
    collator := { s.collator with timer := s.collator.timer.map (timerElapse d) } } rfl]
  simp only [receiveElapse_eq]
  rfl

/-- Time that no running timer's timeout falls in moves the clocks alone. -/
theorem passTime_outlasts {d : Nat} {s : State} (h : timerOutlasts d s) : passTime d s = clocksAfter d s := by
  unfold passTime timerLacks
  split
  · exact elapse_eq d s
  · rename_i k hk
    split at hk
    · rename_i hm
      cases ht : s.collator.timer with
      | none => simp [ht] at hk
      | some t =>
        have hl := h hm t ht
        simp only [ht, Option.map_some, Option.some.injEq] at hk
        rw [if_neg (by omega)]
        exact elapse_eq d s
    · cases hk

/-- Time in which a running timer reaches its timeout: the timer counts to its timeout, the collator faults, and the clocks
count the rest. -/
theorem passTime_expires {d : Nat} {s : State} {w : CollatorTimer}
    (hm : s.collator.mode = .pushing ∨ s.collator.mode = .dumping) (ht : s.collator.timer = some w)
    (hd : w.timeout - w.elapsed ≤ d) :
    passTime d s = clocksAfter (d - (w.timeout - w.elapsed)) (collatorFault (clocksAfter (w.timeout - w.elapsed) s)) := by
  have hl : timerLacks s = some (w.timeout - w.elapsed) := by simp [timerLacks, hm, ht]
  unfold passTime timerExpires
  rw [hl]
  simp only [hd, if_true, elapse_eq]

/-- All that a collator fault can do, with room for its reports: nothing in FAULTED, else the fault and the stop. -/
theorem collatorFault_room {s : State} (h : reportRoom 3 s) :
    collatorFault s = if s.collator.mode = .faulted then s else afterCollatorFault s := by
  unfold collatorFault afterCollatorFault
  split
  · rfl
  · by_cases hp : s.path.state = .stopped
    · have hl : latchCondition .collatorFault s.report = afterLatching .collatorFault s.report :=
        latchCondition_room (by unfold reportRoom at h; unfold reportCapacity at *; omega)
      rw [raiseFault_stopped (by exact hp)]
      simp [hp, latch, hl]
    · rw [raiseFault_room (by exact h) (by exact hp)]
      simp [hp]

end Sys2Proof.Machine
end

