-- ==== Sys2Proof/Laws/Runs.lean ====
section
/-! SUPPORT. What the run's records read and do: clear sensors, the halt test, resampling, the withdrawal at END RUN,
and a recovery (R15, R57, R138, R141, R150). -/

namespace Sys2Proof.Machine

/-! ### Vectors read as lists -/

theorem vector_all_iff {α : Type} {n : Nat} (v : Vector α n) (p : α → Bool) :
    v.toList.all p = true ↔ ∀ i : Fin n, p v[i] = true := by
  simp only [List.all_eq_true]
  constructor
  · intro h i
    exact h v[i] (by simp)
  · intro h k hk
    obtain ⟨i, hi, rfl⟩ := List.mem_iff_getElem.1 hk
    have hi' : i < n := by simpa using hi
    simpa using h ⟨i, hi'⟩

theorem vector_any_iff {α : Type} {n : Nat} (v : Vector α n) (p : α → Bool) :
    v.toList.any p = true ↔ ∃ i : Fin n, p v[i] = true := by
  simp only [List.any_eq_true]
  constructor
  · rintro ⟨x, hx, h⟩
    obtain ⟨i, hi, rfl⟩ := List.mem_iff_getElem.1 hx
    have hi' : i < n := by simpa using hi
    exact ⟨⟨i, hi'⟩, by simpa using h⟩
  · rintro ⟨i, h⟩
    exact ⟨v[i], by simp, h⟩

/-- All stations read CLEAR (R138, R149). -/
theorem sensorsClear_iff (s : State) : sensorsClear s = true ↔ linesClear s := by
  unfold sensorsClear linesClear
  rw [vector_all_iff]
  simp

/-- What resampling does to the stations (R15). -/
theorem resampled_map (v : Vector StationState 14) :
    resampled v (mapStations (fun k => { k with level := k.line, edge := none }) v) := by
  intro i
  simp [mapStations]

/-- The tables START RUN needs (R138). -/
theorem tablesComplete_iff (t : TableStore) :
    tablesComplete t = true ↔ t.station.isSome = true ∧ t.segment.isSome = true ∧ t.belt.isSome = true
      ∧ ∃ i : Fin 16, (bankEntries t t.active)[i].isSome = true := by
  unfold tablesComplete
  simp only [Bool.and_eq_true, vector_any_iff, and_assoc]

/-! ### The halt test (R141) -/

/-- The halt test passes exactly where its conditions hold. -/
theorem haltTestPasses_iff (s : State) : haltTestPasses s = true ↔ haltable s := by
  simp only [haltTestPasses, haltable, Bool.and_eq_true, List.all_eq_true, decide_eq_true_eq, List.isEmpty_iff, and_assoc]
  refine and_congr (forall_congr' fun x => forall_congr' fun _ => ?_) Iff.rfl
  simp only [hasCommitted, hasUncommitted, Bool.not_eq_true', Bool.and_eq_false_iff, decide_eq_false_iff_not]
  cases hs : x.state <;> simp
  omega

/-! ### The withdrawal at END RUN (R57) -/

/-- Walking the registry queues one SET DONE WITHDRAWN for each set that is not FAILED, oldest first. -/
theorem withdrawReports_room (l : List SetEntry) (s : State) (h : s.report.queue.length + l.length ≤ reportCapacity) :
    l.foldl (fun s e => withdrawReport e s) s = { s with
      report := withReports ((l.filter (fun e => decide (e.state ≠ .failed))).map
        (fun e => .setDone e.set e.attempt .withdrawn 0)) s.report } := by
  induction l generalizing s with
  | nil => simp
  | cons e l ih =>
    simp only [List.length_cons] at h
    simp only [List.foldl_cons]
    by_cases hf : e.state = .failed
    · have : withdrawReport e s = s := by simp [withdrawReport, hf]
      rw [this, ih _ (by omega)]
      simp [hf]
    · have h0 : withdrawReport e s = sendReport (.setDone e.set e.attempt .withdrawn 0) s := by simp [withdrawReport, hf]
      have h1 : sendReport (.setDone e.set e.attempt .withdrawn 0) s
          = { s with report := withReports [.setDone e.set e.attempt .withdrawn 0] s.report } := by
        simp only [sendReport]
        rw [enqueueReport_room (by omega)]
      rw [h0, h1, ih _ (by simp; omega)]
      simp [hf, withReports]

/-! ### A recovery (R150) -/

/-- What the collator does at a recovery changes the collator alone (R131). -/
theorem collatorRecover_frame (s : State) : collatorRecover s = { s with collator := (collatorRecover s).collator } := by
  unfold collatorRecover
  split
  · rfl
  · split <;> rfl
  all_goals rfl

/-- A recovered collator is not COLLECTING, so a spoil tells it nothing. -/
theorem collatorRecover_mode (s : State) : (collatorRecover s).collator.mode ≠ .collecting := by
  unfold collatorRecover
  split
  · simp
  · rename_i h
    split
    · simp [collatorEmptied]
    · simp [h]
  all_goals (rename_i h; simp [h])

/-- Operations on sets leave a collator that is not COLLECTING as it is. -/
theorem SetFrame.collator_kept {s t : State} (h : SetFrame s t) (hm : s.collator.mode ≠ .collecting) :
    t.collator = s.collator := by
  rcases h.2.2.2.1 with h | ⟨h, _⟩
  · exact h
  · exact absurd h hm

end Sys2Proof.Machine
end

