-- ==== Sys2Proof/Laws/Sheets.lean ====
section
/-! SUPPORT. What the Sheet Tracker's operations can do (R18, R85 to R107), and which entry is judged. -/

namespace Sys2Proof.Machine

/-! ### The entry that is judged (R89, R94) -/

/-- No entry is chosen where none has a position. -/
theorem earliest_none (pos : Track → Option Pos) (l : List Track) (h : ∀ e ∈ l, pos e = none) : earliest pos l = none := by
  induction l with
  | nil => rfl
  | cons e l ih =>
    simp only [earliest, h e (by simp), ih fun x hx => h x (by simp [hx])]

/-- The entry chosen stands in the table and has a position. -/
theorem earliest_some (pos : Track → Option Pos) (l : List Track) {e : Track} (h : earliest pos l = some e) :
    e ∈ l ∧ (pos e).isSome = true := by
  induction l generalizing e with
  | nil => simp [earliest] at h
  | cons x l ih =>
    simp only [earliest] at h
    cases hx : pos x with
    | none =>
      rw [hx] at h
      have := ih h
      exact ⟨by simp [this.1], this.2⟩
    | some y =>
      rw [hx] at h
      cases hr : earliest pos l with
      | none =>
        rw [hr] at h
        cases h
        simp [hx]
      | some r =>
        have hr' := ih hr
        rw [hr] at h
        simp only at h
        split at h
        · split at h <;> cases h
          · simp [hx]
          · exact ⟨by simp [hr'.1], hr'.2⟩
        · cases h
          simp [hx]

/-- The one entry of a table is chosen where it has a position. -/
theorem earliest_single (pos : Track → Option Pos) (e : Track) : earliest pos [e] = if (pos e).isSome then some e else none := by
  simp only [earliest]
  cases pos e <;> rfl

/-- The entry that no entry before it equals or precedes, and no entry after it precedes, is chosen (R89). -/
theorem earliest_first (pos : Track → Option Pos) (before after : List Track) (y : Track) {x : Pos} (hy : pos y = some x)
    (hb : ∀ z ∈ before, ∀ x' ∈ pos z, 0 < travelDiff x' x) (ha : ∀ z ∈ after, ∀ x' ∈ pos z, 0 ≤ travelDiff x' x) :
    earliest pos (before ++ y :: after) = some y := by
  induction before with
  | nil =>
    cases hr : earliest pos after with
    | none => simp [earliest, hy, hr]
    | some r =>
      have hs := earliest_some pos after hr
      cases hp : pos r with
      | none => simp [earliest, hy, hr, hp]
      | some x' => simp [earliest, hy, hr, hp, noLater, ha r hs.1 x' hp]
  | cons c b ih =>
    have hi := ih fun z hz => hb z (by simp [hz])
    cases hc : pos c with
    | none => simp [earliest, hc, hi]
    | some x' =>
      have h1 := hb c (by simp) x' hc
      have h2 : ¬(0 ≤ travelDiff x x') := by
        unfold travelDiff at h1 ⊢
        omega
      simp [earliest, hc, hi, hy, noLater, h2]

/-- A change of one sheet's entry, the table seen as the entries before it, the entry, and those after it. -/
theorem updateTrack_split {s : State} {y : Track} {before after : List Track} {id : SheetId}
    (h : s.tracker.table = before ++ y :: after) (hid : y.sheet = id) (hn : ∀ z ∈ before ++ after, z.sheet ≠ id)
    (f : Track → Track) : updateTrack id f s = withTable (before ++ f y :: after) s := by
  have hb : before.map (fun e => if e.sheet = id then f e else e) = before := by
    conv_rhs => rw [← List.map_id before]
    exact List.map_congr_left fun z hz => by simp [hn z (by simp [hz])]
  have ha : after.map (fun e => if e.sheet = id then f e else e) = after := by
    conv_rhs => rw [← List.map_id after]
    exact List.map_congr_left fun z hz => by simp [hn z (by simp [hz])]
  simp [updateTrack, withTable, h, hb, ha, hid]

/-! ### The words for a judged edge -/

@[simp] theorem withTable_tables (l : List Track) (s : State) : (withTable l s).tables = s.tables := rfl
@[simp] theorem withTable_counters (l : List Track) (s : State) : (withTable l s).counters = s.counters := rfl
@[simp] theorem withTable_path (l : List Track) (s : State) : (withTable l s).path = s.path := rfl
@[simp] theorem withTable_sched (l : List Track) (s : State) : (withTable l s).sched = s.sched := rfl
@[simp] theorem withTable_registry (l : List Track) (s : State) : (withTable l s).registry = s.registry := rfl
@[simp] theorem withTable_collator (l : List Track) (s : State) : (withTable l s).collator = s.collator := rfl
@[simp] theorem withTable_shelf (l : List Track) (s : State) : (withTable l s).shelf = s.shelf := rfl
@[simp] theorem withTable_report (l : List Track) (s : State) : (withTable l s).report = s.report := rfl
@[simp] theorem withTable_orders (l : List Track) (s : State) : (withTable l s).orders = s.orders := rfl
@[simp] theorem withTable_points (l : List Track) (s : State) : (withTable l s).points = s.points := rfl
@[simp] theorem edgeTaken_tables (st : Station) (b : Bool) (s : State) : (edgeTaken st b s).tables = s.tables := rfl
@[simp] theorem edgeTaken_counters (st : Station) (b : Bool) (s : State) : (edgeTaken st b s).counters = s.counters := rfl
@[simp] theorem edgeTaken_path (st : Station) (b : Bool) (s : State) : (edgeTaken st b s).path = s.path := rfl
@[simp] theorem edgeTaken_sched (st : Station) (b : Bool) (s : State) : (edgeTaken st b s).sched = s.sched := rfl
@[simp] theorem edgeTaken_registry (st : Station) (b : Bool) (s : State) : (edgeTaken st b s).registry = s.registry := rfl
@[simp] theorem edgeTaken_collator (st : Station) (b : Bool) (s : State) : (edgeTaken st b s).collator = s.collator := rfl
@[simp] theorem edgeTaken_shelf (st : Station) (b : Bool) (s : State) : (edgeTaken st b s).shelf = s.shelf := rfl
@[simp] theorem edgeTaken_report (st : Station) (b : Bool) (s : State) : (edgeTaken st b s).report = s.report := rfl
@[simp] theorem edgeTaken_orders (st : Station) (b : Bool) (s : State) : (edgeTaken st b s).orders = s.orders := rfl
@[simp] theorem edgeTaken_tracker (st : Station) (b : Bool) (s : State) : (edgeTaken st b s).tracker = s.tracker := rfl
@[simp] theorem afterTrim_tables (st : Station) (e : Option Int) (s : State) : (afterTrim st e s).tables = s.tables := by
  cases e <;> rfl
@[simp] theorem afterTrim_path (st : Station) (e : Option Int) (s : State) : (afterTrim st e s).path = s.path := by
  cases e <;> rfl
@[simp] theorem afterTrim_sched (st : Station) (e : Option Int) (s : State) : (afterTrim st e s).sched = s.sched := by
  cases e <;> rfl
@[simp] theorem afterTrim_registry (st : Station) (e : Option Int) (s : State) : (afterTrim st e s).registry = s.registry := by
  cases e <;> rfl
@[simp] theorem afterTrim_collator (st : Station) (e : Option Int) (s : State) : (afterTrim st e s).collator = s.collator := by
  cases e <;> rfl
@[simp] theorem afterTrim_shelf (st : Station) (e : Option Int) (s : State) : (afterTrim st e s).shelf = s.shelf := by
  cases e <;> rfl
@[simp] theorem afterTrim_tracker (st : Station) (e : Option Int) (s : State) : (afterTrim st e s).tracker = s.tracker := by
  cases e <;> rfl
@[simp] theorem afterTrim_points (st : Station) (e : Option Int) (s : State) : (afterTrim st e s).points = s.points := by
  cases e <;> rfl
@[simp] theorem afterTrim_orders (st : Station) (e : Option Int) (s : State) : (afterTrim st e s).orders = s.orders := by
  cases e <;> rfl

/-! ### What a lead can do -/

/-- All that judging a lead can change: trims, points, the scheduler, the tracker, the shelf, the path by a stop, and
reports. -/
def LeadFrame (s t : State) : Prop :=
  t = { s with
      counters := t.counters, points := t.points, sched := t.sched, tracker := t.tracker, shelf := t.shelf
      path := t.path, report := t.report }
    ∧ Grown s.report t.report
    ∧ (t.path = s.path ∨ (t.path.state = .stopped ∧ t.path.faultStop = true))

theorem LeadFrame.refl (s : State) : LeadFrame s s := ⟨rfl, Grown.refl _, .inl rfl⟩

theorem LeadFrame.trans {a b c : State} (h : LeadFrame a b) (h' : LeadFrame b c) : LeadFrame a c := by
  obtain ⟨e, g, p⟩ := h
  obtain ⟨e', g', p'⟩ := h'
  refine ⟨by rw [e', e], g.trans g', ?_⟩
  rcases p' with p' | p'
  · rw [p']
    exact p
  · exact .inr p'

theorem leadFrame_updateTrack (id : SheetId) (f : Track → Track) (s : State) : LeadFrame s (updateTrack id f s) :=
  ⟨rfl, Grown.refl _, .inl rfl⟩

theorem leadFrame_placePoint (g : Segment) (x : Pos) (e : PointEvent) (s : State) : LeadFrame s (placePoint g x e s) :=
  ⟨rfl, Grown.refl _, .inl rfl⟩

theorem leadFrame_dropPoint (e : PointEvent) (s : State) : LeadFrame s (dropPoint e s) := ⟨rfl, Grown.refl _, .inl rfl⟩

theorem grown_raiseFault (r : StopRecord) (s : State) : Grown s.report (raiseFault r s).report := by
  unfold raiseFault
  split
  · exact Grown.refl _
  · exact (grown_enqueue _ _).trans (grown_enqueue _ _)

/-- A jam (R108). -/
theorem leadFrame_jam (cause : StopCause) (st : Station) (named : Option NamedSheet) (d : Option Int) (s : State) :
    LeadFrame s (jam cause st named d s) := by
  unfold jam
  obtain ⟨k, p, t, x, u, h⟩ := raiseFault_frame
    { cause := cause, station := some st, named := named, deviation := d } (latch .jam s)
  refine ⟨?_, (grown_latch _ _).trans (grown_raiseFault _ _), .inr (raiseFault_path _ _)⟩
  rw [h]
  rfl

theorem leadFrame_expectLead (id : SheetId) (st : Station) (x : Pos) (s : State) : LeadFrame s (expectLead id st x s) :=
  (leadFrame_updateTrack _ _ _).trans (leadFrame_placePoint _ _ _ _)

theorem leadFrame_pendTrail (e : Track) (st : Station) (q : Pos) (s : State) : LeadFrame s (pendTrail e st q s) := by
  unfold pendTrail
  split
  · exact (leadFrame_updateTrack _ _ _).trans (leadFrame_placePoint _ _ _ _)
  · exact LeadFrame.refl s

theorem leadFrame_trimSample (g : Segment) (qa qb : Pos) (s : State) : LeadFrame s (trimSample g qa qb s) := by
  unfold trimSample
  dsimp only
  split
  · split
    · exact LeadFrame.refl s
    · split
      · exact ⟨rfl, grown_latch _ _, .inl rfl⟩
      · exact ⟨rfl, Grown.refl _, .inl rfl⟩
  · exact LeadFrame.refl s

theorem leadFrame_trimAtLead (e : Track) (st : Station) (q : Pos) (s : State) : LeadFrame s (trimAtLead e st q s) := by
  unfold trimAtLead
  dsimp only
  split
  · exact leadFrame_updateTrack _ _ _
  · split
    · split
      · exact LeadFrame.refl s
      · split
        · exact (leadFrame_updateTrack _ _ _).trans (leadFrame_trimSample _ _ _ _)
        · exact leadFrame_updateTrack _ _ _
    · exact LeadFrame.refl s

theorem leadFrame_releaseClutch (src : Source) (s : State) : LeadFrame s (releaseClutch src s) := by
  unfold releaseClutch
  split
  · exact LeadFrame.refl s
  · exact ⟨rfl, Grown.refl _, .inl rfl⟩

theorem leadFrame_decide (e : Track) (s : State) : LeadFrame s (decideDestination e s) := ⟨rfl, Grown.refl _, .inl rfl⟩

theorem leadFrame_setDiverter (d : Diverter) (s : State) : LeadFrame s (setDiverter d s) := ⟨rfl, Grown.refl _, .inl rfl⟩

theorem leadFrame_afterDiverter (id : SheetId) (d : Destination) (q : Pos) (s : State) :
    LeadFrame s (afterDiverter id d q s) := by
  cases d
  · exact leadFrame_updateTrack _ _ _
  all_goals exact leadFrame_expectLead _ _ _ _

theorem leadFrame_arriveDiverter (e : Track) (q : Pos) (d : Int) (s : State) : LeadFrame s (arriveDiverter e q d s) := by
  unfold arriveDiverter
  split
  · split
    · exact (leadFrame_setDiverter _ _).trans (leadFrame_afterDiverter _ _ _ _)
    · exact leadFrame_jam _ _ _ _ _
  · split
    · exact ((leadFrame_decide _ _).trans (leadFrame_setDiverter _ _)).trans (leadFrame_afterDiverter _ _ _ _)
    · exact (leadFrame_setDiverter _ _).trans (leadFrame_afterDiverter _ _ _ _)
  · exact leadFrame_jam _ _ _ _ _

/-- The next station and the station's action (R91). -/
theorem leadFrame_routeOn (e : Track) (st : Station) (q : Pos) (d : Int) (s : State) :
    LeadFrame s (routeOn e st q d s) := by
  have hx := fun x => (leadFrame_expectLead e.sheet .reg x s).trans
    ((leadFrame_updateTrack e.sheet (fun e => { e with state := .approaching }) _).trans (leadFrame_releaseClutch e.source _))
  cases st
  case d1x => exact hx _
  case d2x => exact hx _
  case d3x => exact hx _
  case d4x => exact hx _
  case shx => exact hx _
  case reg =>
    refine LeadFrame.trans (b := expectNothing e.sheet s) (leadFrame_updateTrack _ _ _) ?_
    show LeadFrame _ (stage e d (expectNothing e.sheet s))
    unfold stage
    split
    · exact leadFrame_jam _ _ _ _ _
    · exact leadFrame_updateTrack _ _ _
  case xfr => exact leadFrame_expectLead _ _ _ _
  case fus =>
    refine LeadFrame.trans (leadFrame_expectLead e.sheet .div (plus q (stationGap s.tables .fus .div)) s) ?_
    show LeadFrame _ (decideAtFuser e _)
    unfold decideAtFuser
    split
    · exact (leadFrame_decide _ _).trans (leadFrame_setDiverter _ _)
    · exact LeadFrame.refl _
  case div => exact leadFrame_arriveDiverter _ _ _ _
  case out =>
    refine LeadFrame.trans (b := expectNothing e.sheet s) (leadFrame_updateTrack _ _ _) ?_
    show LeadFrame _ (collatorLead e d (expectNothing e.sheet s))
    unfold collatorLead
    split
    · exact LeadFrame.refl _
    · exact leadFrame_jam _ _ _ _ _
  case prg => exact leadFrame_updateTrack _ _ _
  case dxe => exact leadFrame_expectLead _ _ _ _
  case inv => exact leadFrame_expectLead _ _ _ _
  case dxs =>
    exact ⟨rfl, Grown.refl _, .inl rfl⟩

/-- An on-time lead (R91). -/
theorem leadFrame_advance (e : Track) (st : Station) (q : Pos) (d : Int) (s : State) : LeadFrame s (advance e st q d s) :=
  ((leadFrame_updateTrack _ _ _).trans (leadFrame_trimAtLead _ _ _ _)).trans
    ((leadFrame_pendTrail _ _ _ _).trans (leadFrame_routeOn _ _ _ _ _))

/-- Every lead (R85, R89 to R91). -/
theorem leadFrame_leadEdge (st : Station) (q : Pos) (s : State) : LeadFrame s (leadEdge st q s) := by
  unfold leadEdge
  split
  · split
    · exact leadFrame_jam _ _ _ _ _
    · dsimp only
      split
      · exact (leadFrame_dropPoint _ _).trans (leadFrame_jam _ _ _ _ _)
      · split
        · exact (leadFrame_dropPoint _ _).trans (leadFrame_jam _ _ _ _ _)
        · exact (leadFrame_dropPoint _ _).trans (leadFrame_advance _ _ _ _ _)
  · exact LeadFrame.refl s

/-! ### What a trail can do -/

/-- All that judging a trail can change: orders, registry, references, points, the reservation, the tracker, the
collator and reports; never the path. -/
def TrailFrame (s t : State) : Prop :=
  t = { s with
      orders := t.orders, registry := t.registry, tables := t.tables, points := t.points, sched := t.sched
      tracker := t.tracker, collator := t.collator, report := t.report }
    ∧ Grown s.report t.report
    ∧ RefsOnly s.tables t.tables

theorem TrailFrame.refl (s : State) : TrailFrame s s := ⟨rfl, Grown.refl _, RefsOnly.refl _⟩

theorem TrailFrame.trans {a b c : State} (h : TrailFrame a b) (h' : TrailFrame b c) : TrailFrame a c := by
  obtain ⟨e, g, r⟩ := h
  obtain ⟨e', g', r'⟩ := h'
  exact ⟨by rw [e', e], g.trans g', r.trans r'⟩

theorem SetFrame.trail {s t : State} (h : SetFrame s t) : TrailFrame s t := ⟨by rw [h.1], h.2.2.2.2.1, h.2.1⟩

theorem trailFrame_updateTrack (id : SheetId) (f : Track → Track) (s : State) : TrailFrame s (updateTrack id f s) :=
  ⟨rfl, Grown.refl _, RefsOnly.refl _⟩

/-- A matched trail's length (R95). -/
theorem trailFrame_judgeLength (e : Track) (lead q : Pos) (s : State) : TrailFrame s (judgeLength e lead q s) := by
  unfold judgeLength
  dsimp only
  split
  · exact ((trailFrame_updateTrack _ _ _).trans (trailFrame_updateTrack _ _ _)).trans (setFrame_spoilSet _ _ _).trail
  · exact trailFrame_updateTrack _ _ _

/-- The push and dump tests (R126, R128). -/
theorem trailFrame_testPushDump (s : State) : TrailFrame s (testPushDump s) := by
  unfold testPushDump
  split
  · unfold issuePush
    dsimp only
    split
    · exact ⟨rfl, Grown.refl _, RefsOnly.refl _⟩
    · exact ⟨rfl, Grown.refl _, RefsOnly.refl _⟩
  · unfold testDump
    split
    · exact ⟨rfl, Grown.refl _, RefsOnly.refl _⟩
    · exact TrailFrame.refl s

theorem trailFrame_releaseRefs (bs : List Bank) (s : State) : TrailFrame s (releaseRefs bs s) :=
  ⟨rfl, Grown.refl _, refsOnly_releaseAll _ _⟩

/-- The exits (R106, R107, R125). -/
theorem trailFrame_exitOut (e : Track) (s : State) : TrailFrame s (exitOut e s) := by
  unfold exitOut collatorTrail
  refine TrailFrame.trans (b := removeTrack e.sheet s) ⟨rfl, Grown.refl _, RefsOnly.refl _⟩ ?_
  refine TrailFrame.trans ?_ ((trailFrame_releaseRefs _ _).trans (setFrame_drainCheck _ _).trail)
  refine TrailFrame.trans ?_ (trailFrame_testPushDump _)
  exact ⟨rfl, Grown.refl _, RefsOnly.refl _⟩

theorem trailFrame_exitPrg (e : Track) (s : State) : TrailFrame s (exitPrg e s) := by
  unfold exitPrg
  refine TrailFrame.trans (b := removeTrack e.sheet s) ⟨rfl, Grown.refl _, RefsOnly.refl _⟩ ?_
  exact (trailFrame_releaseRefs _ _).trans (setFrame_drainCheck _ _).trail

/-- The diverter at a trail at DIV (R102). -/
theorem trailFrame_freeDiverter (s : State) : TrailFrame s (freeDiverter s) := by
  unfold freeDiverter
  split
  · dsimp only
    split
    · exact ⟨rfl, Grown.refl _, RefsOnly.refl _⟩
    · exact ⟨rfl, Grown.refl _, RefsOnly.refl _⟩
  · exact TrailFrame.refl s

/-- A matched trail (R94). -/
theorem trailFrame_matchTrail (e : Track) (lead : Pos) (st : Station) (q : Pos) (s : State) :
    TrailFrame s (matchTrail e lead st q s) := by
  have h : TrailFrame s (updateTrack e.sheet (fun e => { e with trail := none }) (dropPoint (.trailDeadline e.sheet) s)) :=
    ⟨rfl, Grown.refl _, RefsOnly.refl _⟩
  have h' := h.trans (trailFrame_judgeLength e lead q _)
  unfold matchTrail
  dsimp only
  split
  · exact h'.trans (trailFrame_exitOut _ _)
  · exact h'.trans (trailFrame_exitPrg _ _)
  · exact h'

/-- Every trail (R85, R94, R102). -/
theorem trailFrame_trailEdge (st : Station) (q : Pos) (s : State) : TrailFrame s (trailEdge st q s) := by
  unfold trailEdge
  split
  · dsimp only
    have h : TrailFrame s (match trailCandidate st s.tracker.table with
        | none => s
        | some e => matchTrail e ((e.trail.map (fun t => t.lead)).getD q) st q s) := by
      split
      · exact TrailFrame.refl s
      · exact trailFrame_matchTrail _ _ _ _ _
    split
    · exact h.trans (trailFrame_freeDiverter _)
    · exact h
  · exact TrailFrame.refl s

end Sys2Proof.Machine
end

