-- ==== Sys2Proof/Laws/Tables.lean ====
section
/-! SUPPORT. The numbers a body carries, and what ending a load can do (R158 to R160). -/

namespace Sys2Proof.Machine

/-! ### Numbers in bodies (R184) -/

/-- Appending one byte to a run. -/
theorem beNat_append (bs : List Byte) (b : Byte) : beNat (bs ++ [b]) = 256 * beNat bs + b.toNat := by
  simp [beNat, List.foldl_append]

theorem beNat_two (n : Nat) (h : n < 65536) : beNat (natBytes 2 n) = n := by
  simp [natBytes, beNat]
  omega

theorem beNat_four (n : Nat) (h : n < 4294967296) : beNat (natBytes 4 n) = n := by
  simp [natBytes, beNat]
  omega

@[simp] theorem natBytes_length (k n : Nat) : (natBytes k n).length = k := by
  induction k with
  | zero => rfl
  | succ k ih => simp [natBytes, ih]

/-- A 16-bit signed number as two bytes reads back. -/
theorem beInt_two (v : Int) (h1 : -32768 ≤ v) (h2 : v ≤ 32767) : beInt (intBytes 2 v) = v := by
  have e : intBytes 2 v = natBytes 2 (v % 65536).toNat := rfl
  have hb : beNat (intBytes 2 v) = (v % 65536).toNat := by rw [e]; exact beNat_two _ (by omega)
  have hl : (intBytes 2 v).length = 2 := rfl
  simp only [beInt, hb, hl]
  split <;> omega

/-- A START RUN body spells its parameters (R138, R184). -/
theorem parseStartRun_body (p : RunParams) (h1 : p.setGap ≤ 255) (h2 : p.timeout ≤ 65535) :
    parseStartRun (startRunBody p) = some p := by
  obtain ⟨m, q, g, t⟩ := p
  simp only at h1 h2
  have e1 : (startRunBody ⟨m, q, g, t⟩).length = 5 := by cases m <;> cases q <;> rfl
  have e2 : runModeOf (fieldNat (startRunBody ⟨m, q, g, t⟩) 0 1) = some m := by
    cases m <;> simp [fieldNat, fieldBytes, startRunBody, natBytes, beNat, runModeOf]
  have e3 : policyOf (fieldNat (startRunBody ⟨m, q, g, t⟩) 1 1) = some q := by
    cases q <;> simp [fieldNat, fieldBytes, startRunBody, natBytes, beNat, policyOf]
  have e4 : fieldNat (startRunBody ⟨m, q, g, t⟩) 2 1 = g := by
    simp [fieldNat, fieldBytes, startRunBody, natBytes, beNat]
    omega
  have e5 : fieldNat (startRunBody ⟨m, q, g, t⟩) 3 2 = t := by
    simp [fieldNat, fieldBytes, startRunBody, natBytes, beNat]
    omega
  simp [parseStartRun, e1, e2, e3, e4, e5]

/-! ### Entry vectors -/

/-- Every entry defined: the buffer is that table. -/
theorem completeStation_some {v : Vector (Option StationEntry) 14} {w : Vector StationEntry 14}
    (h : ∀ i : Fin 14, v[i] = some w[i]) : completeStation v = some w := by
  have hv : v.toList = w.toList.map some := by
    apply List.ext_getElem
    · simp
    · intro i h1 h2
      simp only [Vector.length_toList] at h1
      have := h ⟨i, h1⟩
      simpa using this
  have hl : v.toList.filterMap id = w.toList := by rw [hv]; simp [List.filterMap_map]
  unfold completeStation
  simp only [hl]
  rw [dif_pos (by simp)]
  congr 1

/-- One entry undefined: the buffer is incomplete. -/
theorem completeStation_none {v : Vector (Option StationEntry) 14} {i : Fin 14} (h : v[i] = none) :
    completeStation v = none := by
  have hm : (none : Option StationEntry) ∈ v.toList := by rw [← h]; simp
  have hlt : ∀ l : List (Option StationEntry), none ∈ l → (l.filterMap id).length < l.length := by
    intro l
    induction l with
    | nil => intro hm; cases hm
    | cons x l ih =>
      intro hm
      have hle := List.length_filterMap_le id l
      cases x with
      | none =>
        show (l.filterMap id).length < l.length + 1
        omega
      | some y =>
        have := ih (by simpa using hm)
        show (l.filterMap id).length + 1 < l.length + 1
        omega
  have := hlt _ hm
  unfold completeStation
  dsimp only
  rw [dif_neg]
  simp only [Vector.length_toList] at this
  omega

/-- The entries of a table, each defined, are that table's. -/
theorem definedEntries_get {α : Type} {n : Nat} (v : Vector α n) (i : Fin n) : (definedEntries v)[i] = some v[i] := by
  simp [definedEntries]

/-! ### Ending a load (R158) -/

/-- A discarded load with room for its two reports. -/
theorem discardLoad_room {s : State} {l : Load} (hl : s.intake.load = some l) (hq : reportRoom 2 s)
    (r : DiscardReason) (t : TableName) (tag : Tag) :
    discardLoad r t tag s = { s with
      intake := { s.intake with load := none }
      tables := if l.buffer = .media then { s.tables with inactive := .free } else s.tables
      report := withReports [.table t (.discarded r) tag] (afterLatching .loadDiscarded s.report) } := by
  unfold reportRoom at hq
  have h2 := afterLatching_length .loadDiscarded s.report
  have h3 : ∀ b, enqueueReport b (afterLatching .loadDiscarded s.report)
      = withReports [b] (afterLatching .loadDiscarded s.report) := fun b => enqueueReport_room (by omega)
  simp only [discardLoad, dropLoad, hl]
  cases l.buffer <;> simp [sendReport, latch, latchCondition_room (show s.report.queue.length < reportCapacity by omega), h3]

/-- A lock record's effect on one index keeps a LOCKED_DOWN index LOCKED_DOWN (R166). -/
theorem lockAfter_lockedDown {o : LockOp} {k : LockState} (h : lockAfter o .lockedDown = some k) : k = .lockedDown := by
  cases o <;> simp_all [lockAfter]

/-- Setting a lock leaves every other field of the Table Store. -/
theorem setLock_frame (t : TableName) (i : Nat) (k : LockState) (tb : TableStore) :
    setLock t i k tb = { tb with
      mediaLocks := (setLock t i k tb).mediaLocks, stationLocks := (setLock t i k tb).stationLocks } := by
  cases t <;> rfl

end Sys2Proof.Machine
end

