-- ==== Sys2Proof/Tests/Slice0.lean ====
section
/-! SUPPORT. Tests: the WellFormed smoke, the spec's worked cases, and for every statement with hypotheses a state and
operands that meet them. Each expected value is the manual's own, or a hand calculation from its rules. -/

namespace Sys2Proof.Tests

open Sys2Proof.Machine

/-! ## Small states -/

/-- A station entry. -/
def entry (position : Nat) (latency : Int) (window debounce aux : Nat) : StationEntry :=
  { position := position, latency := latency, window := window, debounce := debounce, aux := aux }

/-- The station table of the worked cases of sections 4.6.1, 5.4.3, 5.6.4 and 5.7.1, completed so that R159 holds. -/
def stations : Vector StationEntry 14 :=
  #v[entry 1000 0 40 6 1200, entry 2000 0 40 6 1200, entry 3000 0 40 6 1200, entry 4000 0 40 6 1200,
     entry 5000 0 40 6 1200, entry 9000 0 200 6 0, entry 10000 0 40 6 0, entry 15000 (-12) 120 6 0,
     entry 18000 0 40 10 2400, entry 21000 0 40 6 0, entry 22000 0 40 6 0, entry 500 0 60 4 0, entry 4500 0 40 6 0,
     entry 9000 0 40 0 100]

/-- The segment table of section 1.4.5. -/
def segments : SegmentTable :=
  { main := { scale := 2867, trimA := .reg, trimB := .fus, deadband := 8, autoTrim := true }
    duplex := { scale := 2867, trimA := .dxe, trimB := .inv, deadband := 4, autoTrim := true } }

/-- The belt table of sections 4.2.1 and 4.6.1. -/
def belt : BeltEntry :=
  { scale := 16383, revolution := 50400, pitches := 7, pitchLength := 7000, seamOffset := 600, seamTolerance := 40
    writeToRelease := 14000, stagingMargin := 300, clearance := 800 }

/-- The media entry of section 4.6.1. -/
def media : MediaEntry := { drawer := .d2, length := 5588, tolerance := 60, duplexPermitted := true }

/-- The Table Store with those tables, code 3 defined in bank 0. -/
def tables : TableStore :=
  { TableStore.reset with
    bank0 := (Vector.replicate 16 none).set 3 (some media), station := some stations, segment := some segments
    belt := some belt }

/-- A counter with scale n, trim t and position p. -/
def counter (n : Nat) (t : Int) (p : Pos) : Counter := { Counter.reset with nominal := some n, trim := t, position := p }

/-- IDLE, with the tables. -/
def parked : State :=
  { State.reset with
    tables := tables, counters := { main := counter 2867 (-5) 0, duplex := counter 2867 0 0, belt := counter 16383 0 0 } }

/-- Run parameters. -/
def params (m : RunMode) (p : Policy) : RunParams := { mode := m, policy := p, setGap := 1, timeout := 1000 }

/-- A path state with a run active, its drives as R137 has them. -/
def inPath (st : PathState) (m : RunMode) (p : Policy) (s : State) : State :=
  { s with path := { s.path with
      state := st, runActive := true, params := some (params m p)
      drives := decide (st = .running ∨ st = .halting) } }

/-- A SIMPLEX STRICT run. -/
def running : State := inPath .running .simplex .strict parked

/-- STOPPED with a stop record, the machine at rest. -/
def stopped : State :=
  { inPath .stopped .simplex .strict parked with
    path := { (inPath .stopped .simplex .strict parked).path with
      stopRecord := some { cause := .leadOverdue, station := some .fus, named := none, deviation := none }, faultStop := true
      silence := 200 } }

/-- The drawers with paper. -/
def full : DrawerLines := { d1 := .low, d2 := .low, d3 := .low, d4 := .low }

/-- The identity of a sheet at attempt 0. -/
def sheetOf (set seq : Nat) : SheetId := { set := BitVec.ofNat 32 set, attempt := 0, seq := seq }

/-- A SHEET record. -/
def record (set seq : Nat) (last : Bool) : SheetRecord :=
  { tag := 9, sheet := sheetOf set seq, last := last, media := 3, side1 := 7, side2 := none }

/-- A SHEET body: set, attempt, sequence, flags, media code, SIDE-1 handle 7, no SIDE-2 handle. -/
def body (set attempt seq flags code : Byte) : List Byte :=
  [0, 0, 0, set, attempt, seq, flags, code, 0, 0, 0, 7, 0, 0, 0, 0]

/-- A registry entry. -/
def setEntry (set : Nat) (st : SetState) (ordered : Nat) : SetEntry :=
  { newEntry (BitVec.ofNat 32 set) with state := st, ordered := ordered }

/-- An order. -/
def order (set seq : Nat) : Order :=
  { tag := 9, sheet := sheetOf set seq, last := false, media := 3, gen := .bank0, side1 := 7, side2 := none }

/-- A tracking entry of a pass-1 sheet from drawer 2. -/
def track (set seq : Nat) (st : SheetState) (next : Option Station) (x : Option Pos) : Track :=
  { feedTrack (order set seq) (.drawer .d2) with state := st, next := next, expected := x }

/-- An event's point, reached, on MAIN. -/
def due (e : PointEvent) (s : State) : State := { s with points := [⟨.main, 0, e, true⟩] }

/-- A pending edge at a station, its debounce point reached. -/
def edgeDue (st : Station) (blocked : Bool) (raw : Pos) (s : State) : State :=
  due (.debounce st)
    { s with stations := s.stations.set (stationId st) { line := blocked, level := !blocked, edge := some ⟨blocked, raw⟩ } }

/-- A set number's registry. -/
def withSets (es : List SetEntry) (s : State) : State := { s with registry := es }

/-- A tracking table. -/
def withTracks (es : List Track) (s : State) : State := { s with tracker := { s.tracker with table := es } }

/-- A load in hand. -/
def withLoad (l : Load) (s : State) : State := { s with intake := { s.intake with load := some l } }

/-- A load of a buffer. -/
def loadOf (b : LoadBuffer) (remaining : Nat) (mark : LoadMark) : Load :=
  { buffer := b, remaining := remaining, mark := mark, wroteMain := true, wroteDuplex := false }

/-- What a command leaves; State.reset where it gave no next state. -/
def got (c : Instr) (s : State) : State :=
  match exec c s with
  | .next t => t
  | _ => State.reset

/-- The reports' bodies. -/
def bodies (s : State) : List ReportBody := s.report.queue.map (fun r => r.body)

/-! ## WellFormed refuses an ill-formed term of each check -/

theorem test_wf_body_too_long : WellFormed (.sheet 1 (List.replicate 256 0)) = false := by decide +kernel
theorem test_wf_body_longest : WellFormed (.query 1 (List.replicate 255 0)) = true := by decide +kernel
theorem test_wf_lock_holds_no_unlock : WellFormed (.lock 1 [0x02, 0x01, 0x00]) = false := by decide
theorem test_wf_lock_holds_no_lock_down : WellFormed (.lock 1 [0x03, 0x01, 0x00]) = false := by decide
theorem test_wf_unlock_rest_too_long : WellFormed (.unlock 1 (List.replicate 255 0)) = false := by decide +kernel
theorem test_wf_lock_down_rest_too_long : WellFormed (.lockDown 1 (List.replicate 255 0)) = false := by decide +kernel
theorem test_wf_unknown_kind_is_known : WellFormed (.unknownKindRecord 0x10 1 []) = false := by decide
theorem test_wf_unknown_kind : WellFormed (.unknownKindRecord 0x11 1 []) = true := by decide
theorem test_wf_discard_short : WellFormed (.imagerFrameDiscard [0x5A]) = false := by decide
theorem test_wf_discard_no_sync : WellFormed (.imagerFrameDiscard (List.replicate 9 0)) = false := by decide
theorem test_wf_discard_good_fault : WellFormed (.imagerFrameDiscard (imageFaultFrame 3 7)) = false := by decide +kernel
theorem test_wf_sequence_zero : WellFormed (.feedStart (sheetOf 1 0)) = false := by decide
theorem test_wf_sequence_too_large : WellFormed (.leadDeadline (sheetOf 1 65)) = false := by decide
theorem test_wf_attempt_too_large : WellFormed (.settlePoint { sheetOf 1 1 with attempt := 256 }) = false := by decide

/-! ## Positions (scope file, 5.2) -/

theorem test_travel_across_wrap : travelDiff 10 1048570 = 16 ∧ travelDiff 1048570 10 = -16 := by decide
theorem test_travel_near_wrap : travelDiff 20 1048400 = 196 := by decide

/-! ## Counting (1.1.5) -/

/-- MAIN after ten forward counts of the worked case: fraction 4,044, position 1,048,576 modulo 2^20. -/
def carried : State :=
  { parked with counters := { parked.counters with main := { counter 2867 (-5) 0 with fraction := 4044 } } }

theorem test_forward_carries :
    (got (.forwardCount ⟨.main, full, 0⟩) carried).counters.main.fraction = 2810
      ∧ (got (.forwardCount ⟨.main, full, 0⟩) carried).counters.main.position = 1 := by decide

theorem test_forward_pays_debt :
    (got (.forwardCount ⟨.main, full, 0⟩) { carried with counters := { carried.counters with main :=
      { carried.counters.main with debt := 3 } } }).counters.main
      = { carried.counters.main with debt := 2, phaseA := true } := by decide

/-- The large carry of 1.1.5: 4,095 + 16,383 carries 4, stepping over a point at 200,003. -/
theorem test_forward_steps_over_a_point :
    let s := { parked with
      counters := { parked.counters with belt := { counter 16383 0 200000 with fraction := 4095 } }
      points := [⟨.belt, 200003, .release, false⟩] }
    (got (.forwardCount ⟨.belt, full, 0⟩) s).counters.belt.position = 200004
      ∧ (got (.forwardCount ⟨.belt, full, 0⟩) s).points = [⟨.belt, 200003, .release, true⟩]
      ∧ (got (.forwardCount ⟨.belt, full, 0⟩) { s with pending := [.halt 1 []] }).pending = [.release, .halt 1 []] := by decide

/-- A feed start at 4,924 taken with MAIN at 8,000: the lead deadline at D2X, 4,924 + 1,200 + w + H, has been passed, and its
event is next (R5). -/
theorem test_point_passed_at_its_placing :
    (got (.feedStart (sheetOf 1 1)) { running with
        counters := { running.counters with main := counter 2867 0 8000 }
        tracker := { running.tracker with table := [track 1 1 .feeding (some .d2x) none] }
        points := [⟨.main, 4924, .feedStart (sheetOf 1 1), true⟩] }).pending
      = [.leadDeadline (sheetOf 1 1)] := by decide

theorem test_reverse_debt_held_at_255 :
    (got (.reverseCount .main) { parked with counters := { parked.counters with main :=
      { counter 2867 0 5 with debt := 255 } } }).counters.main.debt = 255 := by decide

theorem test_phase_error_counts_nothing :
    (got (.phaseError .duplex) parked).counters.duplex.position = 0
      ∧ (got (.phaseError .duplex) stopped).path.silence = 0 := by decide

/-! ## Edges (1.3.5) -/

/-- The debounce point of the lead across the wrap: 1,048,574 + 6 is 4. -/
theorem test_sensor_opens_an_edge :
    (got (.sensorChange .fus) { parked with counters := { parked.counters with main := counter 2867 0 1048574 } }).points
      = [⟨.main, 4, .debounce .fus, false⟩] := by decide

/-- A glitch within the debounce is cancelled. -/
theorem test_sensor_glitch_cancels :
    (got (.sensorChange .div) (got (.sensorChange .div) parked)).points = []
      ∧ (got (.sensorChange .div) (got (.sensorChange .div) parked)).stations = State.reset.stations := by decide

/-- The confirmed position is 1,048,574 − 12 = 1,048,562; no sheet is expected, so LEAD_EARLY. -/
theorem test_debounce_unexpected_lead :
    (got (.debouncePointReached .fus) (edgeDue .fus true 1048574 running)).path.stopRecord
      = some { cause := .leadEarly, station := some .fus, named := none, deviation := none } := by decide

/-! ## Trim (1.4.5) -/

theorem test_trim_correction :
    (trimSample .main 1046000 3437 running).counters.main.trim = -9 := by decide

theorem test_trim_capped :
    (trimSample .main 0 5930 { running with counters := { running.counters with main := counter 2867 (-9) 0 } }).counters.main.trim
      = 7 := by decide

theorem test_trim_clamped :
    trimClamp (trimMoved 505 (-30)) = 511 ∧ trimMoved 505 (-30) = 513 := by decide

theorem test_set_trim_range :
    (got (.setTrim 1 [0x01, 0xFE, 0x00]) parked).counters.duplex.trim = -512
      ∧ bodies (got (.setTrim 1 [0x00, 0xFD, 0xFF]) parked)
        = [.refusal (some 1) (some .setTrim) .outOfRange, .alert .refused 0x0080] := by decide

/-! ## Belt (4.2.1, 4.6.1) -/

/-- SYNCED with S = 1,040,000; the mark 30 short of the prediction 41,824 re-bases. -/
def synced (mark : Pos) : State :=
  { running with
    counters := { running.counters with belt := counter 16383 0 mark }
    sched := { running.sched with seam := some 1040000 } }

theorem test_seam_rebases :
    (got (.seamMark full) (synced 41794)).sched.seam = some 41794
      ∧ (got (.seamMark full) (synced 41794)).path.state = .running := by decide

/-- 41 past the prediction is a slip with deviation +41. -/
theorem test_seam_slips :
    (got (.seamMark full) (synced 41865)).path.stopRecord
      = some { cause := .beltSlip, station := none, named := none, deviation := some 41 } := by decide +kernel

theorem test_seam_watch_slips :
    (got .seamWatchPoint (due .seamWatch (synced 41864))).path.state = .stopped
      ∧ got .seamWatchPoint running = running := by decide

/-- The mark at the far edge of tolerance, +40, on the watch point's carry (4.2). -/
def farEdge : State :=
  { synced 41860 with
    counters := { running.counters with belt := { counter 16383 0 41860 with fraction := 4095 } }
    points := [⟨.belt, 41864, .seamWatch, false⟩]
    pending := [.seamMark full, .halt 1 []] }

/-- Either is taken first: the mark re-bases and nothing further happens, or the belt slips. -/
theorem test_mark_on_the_watch_points_carry :
    let t := got (.forwardCount ⟨.belt, full, 1⟩) farEdge
    (t.pending = [.seamWatchPoint, .seamMark full, .halt 1 []] ∨ t.pending = [.seamMark full, .seamWatchPoint, .halt 1 []])
      ∧ (got .seamWatchPoint (got (.seamMark full) t)).sched.seam = some 41864
      ∧ (got .seamWatchPoint (got (.seamMark full) t)).path.state = .running
      ∧ (got .seamWatchPoint t).path.state = .stopped := by
  refine ⟨?_, by decide, by decide, by decide⟩
  have h : (got (.forwardCount ⟨.belt, full, 1⟩) farEdge).pending
      = insertRanked (Config.passageRank _) .seamWatchPoint [.seamMark full] ++ [.halt 1 []] := rfl
  rw [h]
  unfold insertRanked
  split
  · exact .inl rfl
  · exact .inr rfl

/-- The commit of pitch 3 at MAIN 1,048,000 and BELT 13,024. -/
def committing : State :=
  due .pitch
    { synced 13024 with
      counters := { running.counters with main := counter 2867 0 1048000, belt := counter 16383 0 13024 }
      orders := [order 1 1], registry := [setEntry 1 .open 1]
      sched := { (synced 0).sched with nextPitch := 3 } }

/-- Its feed start is 5,500 beyond, at 4,924, its release position 27,024, and the next boundary (k = 4) at 20,024. -/
theorem test_commit_feeds :
    (got (.pitchCommitEvent full) committing).points
        = [⟨.belt, 27024, .release, false⟩, ⟨.main, 4924, .feedStart (sheetOf 1 1), false⟩, ⟨.belt, 20024, .pitch, false⟩]
      ∧ (got (.pitchCommitEvent full) committing).orders = [] := by decide

theorem test_commit_drawer_empty :
    bodies (got (.pitchCommitEvent { full with d2 := .high }) committing) = [.alert .drawerEmpty 0x0800] := by decide

/-- The feed start of the worked case: D2X expected at 6,124. -/
theorem test_feed_start :
    (got (.feedStart (sheetOf 1 1)) { running with
        tracker := { running.tracker with table := [track 1 1 .feeding (some .d2x) none] }
        points := [⟨.main, 4924, .feedStart (sheetOf 1 1), true⟩] }).tracker.table.map (fun e => (e.next, e.expected))
      = [(some .d2x, some 6124)] := by decide

/-- The head of the ring, its sheet STAGED. -/
def releasing : State :=
  due .release
    { withTracks [track 1 1 .staged none none] running with
      counters := { running.counters with main := counter 2867 0 13424 }
      sched := { running.sched with ring := [{ pitch := 3, tag := 9, sheet := sheetOf 1 1, handle := some 7, release := 27024 }] } }

/-- The gate close point of the worked case is 19,412. -/
theorem test_release :
    (got .release releasing).points.map (fun q => (q.event, q.position))
        = [(.gateClose, 19412), (.leadDeadline (sheetOf 1 1), 14470)]
      ∧ (got .release releasing).sched.gateOpen = true := by decide

theorem test_gate_closes :
    (got .gateClosePoint (due .gateClose { running with sched := { running.sched with gateOpen := true } })).sched.gateOpen
      = false := by decide

/-! ## Sheets (5.3.4, 5.4.3, 5.7.1) -/

/-- A sheet MOVING with XFR expected at 500,000. -/
def toXfr (raw : Pos) : State := edgeDue .xfr true raw (withTracks [track 1 1 .moving (some .xfr) (some 500000)] running)

/-- d = +40 is on time: FUS is expected 5,000 further on, and a trail is pending. -/
theorem test_lead_on_the_window_edge :
    (got (.debouncePointReached .xfr) (toXfr 500040)).tracker.table.map (fun e => (e.next, e.expected, e.lastPassed))
      = [(some .fus, some 505040, some .xfr)] := by decide

/-- d = +41 is late. -/
theorem test_lead_late :
    (got (.debouncePointReached .xfr) (toXfr 500041)).path.stopRecord
      = some { cause := .leadOverdue, station := some .xfr
               named := some { tag := 9, sheet := sheetOf 1 1 }, deviation := some 41 } := by decide +kernel

/-- The trail deadline of 5.4.3: 20,000 + 5,588 + 60 + 120 + 6. -/
theorem test_trail_deadline :
    trailDeadlineAt tables (track 1 1 .moving (some .fus) none) .fus 20000 = 25774 := by decide

/-- A sheet measured 5,700 at FUS is spoiled LENGTH. -/
theorem test_length_spoils :
    let s := edgeDue .fus false 25712 (withSets [setEntry 1 .sealed 1] (withTracks
      [{ track 1 1 .moving (some .div) none with trail := some { station := .fus, deadline := 25774, lead := 20000 } }] running))
    (got (.debouncePointReached .fus) s).tracker.table.map (fun e => (e.measured, e.spoiled)) = [(some 5700, some .length)] := by
  decide

theorem test_lead_deadline :
    bodies (got (.leadDeadline (sheetOf 1 1)) (due (.leadDeadline (sheetOf 1 1))
      (withTracks [track 1 1 .moving (some .xfr) (some 500000)] running)))
      = [.alert .jam 0x0001,
         .jam .leadOverdue (some .xfr) (some 9) none [{ tag := 9, set := 1, seq := 1, lastPassed := none }],
         .path .stopped true] := by decide

theorem test_trail_deadline_jams :
    (got (.trailDeadline (sheetOf 1 1)) (due (.trailDeadline (sheetOf 1 1)) (withTracks
      [{ track 1 1 .moving (some .div) none with trail := some { station := .fus, deadline := 25774, lead := 20000 } }]
      running))).path.stopRecord.map (fun r => (r.cause, r.station, r.deviation))
      = some (.trailOverdue, some .fus, none) := by decide

theorem test_settle :
    (got (.settlePoint (sheetOf 1 1)) (due (.settle (sheetOf 1 1)) { running with shelf := [⟨sheetOf 1 1, false⟩] })).shelf
      = [⟨sheetOf 1 1, true⟩] := by decide

/-! ## Records of sheets and runs -/

theorem test_sheet_opens_a_set :
    (got (.sheet 9 (body 5 0 1 0 3)) running).registry = [setEntry 5 .open 1]
      ∧ (got (.sheet 9 (body 5 0 1 0 3)) running).tables.refs0 = 1 := by decide

theorem test_sheet_unknown_media :
    bodies (got (.sheet 9 (body 5 0 1 0 4)) running)
      = [.refusal (some 9) (some .sheet) .unknownMedia, .alert .refused 0x0080] := by decide

/-- A running path with a full order queue and the set OPEN. -/
def fullQueue : State :=
  withSets [setEntry 5 .open 1] { running with orders := (List.replicate 32 (order 5 1)) }

theorem test_sheet_holds_the_link :
    (got (.sheet 9 (body 5 0 2 0 3)) fullQueue).intake.held = some (record 5 2 false)
      ∧ partReady (got (.sheet 9 (body 5 0 2 0 3)) fullQueue).intake = false := by decide

theorem test_retry_takes_the_held_record :
    let s := got (.sheet 9 (body 5 0 2 0 3)) fullQueue
    (got .heldSheetRetry { s with orders := s.orders.drop 1 }).intake.rx.frames = []
      ∧ (got .heldSheetRetry { s with orders := s.orders.drop 1 }).registry = [setEntry 5 .open 2] := by decide

/-- A hold broken by a stop, with a HALT behind it (2.6.2): the retry is next, refuses the record with WRONG_STATE, and the HALT
has its turn. -/
theorem test_stop_breaks_the_hold :
    let s := got (.stopLineAsserted .panel) (got (.halt 3 []) (got (.sheet 9 (body 5 0 2 0 3)) fullQueue))
    let t := got .heldSheetRetry { s with pending := [] }
    s.pending = [.heldSheetRetry] ∧ t.intake.held = none ∧ t.pending = [.halt 3 []]
      ∧ (bodies t).getLast? = some (.alert .refused 0x0088)
      ∧ (bodies t).contains (.refusal (some 9) (some .sheet) .wrongState) = true := by
  decide +kernel

theorem test_start_run :
    (got (.startRun 1 [0x02, 0x01, 0x03, 0x03, 0xE8] .high .low) parked).path.params
      = some { mode := .duplex, policy := .strict, setGap := 3, timeout := 1000 } := by decide

theorem test_start_run_gap_out_of_range :
    bodies (got (.startRun 1 [0x01, 0x01, 0x04, 0x03, 0xE8] .high .low) parked)
      = [.refusal (some 1) (some .startRun) .outOfRange, .alert .refused 0x0080] := by decide

theorem test_halt_completes_at_once :
    bodies (got (.halt 1 []) running) = [.path .halting true, .alert .halted 0x4000, .path .halted true] := by decide

theorem test_halt_with_a_body :
    bodies (got (.halt 1 [0]) running) = [.refusal (some 1) (some .halt) .badField, .alert .refused 0x0080] := by decide

theorem test_resume_needs_conditions_clear :
    bodies (got (.resume 1 [] .low) { inPath .halted .simplex .strict parked with
      report := { ReportUnit.reset with latch := 0x0009 } })
      = [.refusal (some 1) (some .resume) .conditionsSet, .alert .refused 0x0089] := by decide

theorem test_end_run_withdraws :
    bodies (got (.endRun 1 []) (withSets [setEntry 5 .awaitingReprint 1, setEntry 6 .failed 1] (inPath .halted .simplex .strict parked)))
      = [.setDone 5 0 .withdrawn 0, .path .idle false] := by decide

theorem test_path_cleared_halts :
    (got (.pathCleared 1 [] .high .low) stopped).path.state = .halted
      ∧ (got (.pathCleared 1 [] .high .low) stopped).imager.out = [ringFlushFrame] := by decide +kernel

theorem test_path_cleared_too_early :
    bodies (got (.pathCleared 1 [] .high .low) { stopped with path := { stopped.path with silence := 199 } })
      = [.refusal (some 1) (some .pathCleared) .notClear, .alert .refused 0x0080] := by decide

theorem test_run_reset_finds_paper :
    bodies (got (.runReset 1 [] .low) running)
      = [.alert .jam 0x0001, .jam .resetWithPaper none none none [], .path .stopped false] := by decide

theorem test_power_on_with_a_fault_line :
    (got (.powerOnReset { sensors := Vector.replicate 14 .low, stopUpstream := .open, stopCollator := .low, stopPanel := .low
                          collatorDone := .high, collatorFault := .open, collatorReady := .low, drawers := full
                          shelfEmpty := .high, controllerReady := true }) running).path.state = .stopped := by decide

/-! ## Conditions and reports -/

theorem test_query_counts_before_joining :
    (bodies (got (.query 1 []) parked)).map (fun b => match b with | .status s => some s.reports | _ => none) = [some 0] := by
  decide

theorem test_clear_names_conditions :
    (got (.clearConditions 1 [0x00, 0x91]) { parked with report := { ReportUnit.reset with latch := 0x4091 } }).report.latch
      = 0x4000 := by decide

theorem test_mask_set : (got (.setMask 1 [0x12, 0x34]) parked).report.mask = 0x1234 := by decide

/-- A PATH report's frame: kind 87, body length 2, the time tag, path code 1, no run. -/
theorem test_transmit :
    ((got (.reportTransmit true) { parked with report := { ReportUnit.reset with queue := [⟨5, .path .idle false⟩] } }).orderOut.map
      (fun f => f.take 7)) = [[0xA5, 0x87, 0x02, 0x00, 0x05, 0x01, 0x00]] := by decide

/-! ## Tables -/

theorem test_lock : (got (.lock 1 [0x01, 0x01, 0x0F]) parked).tables.mediaLocks[15] = .locked := by decide
theorem test_lock_bad_operation :
    bodies (got (.lock 1 [0x04, 0x01, 0x00]) parked) = [.refusal (some 1) (some .lock) .badField, .alert .refused 0x0080] := by
  decide
theorem test_lock_down_stays :
    let s := got (.lockDown 1 [0x02, 0x0D]) parked
    s.tables.stationLocks[13] = .lockedDown ∧ (got (.lock 1 [0x01, 0x02, 0x0D]) s).tables.stationLocks[13] = .lockedDown := by
  decide
theorem test_unlock_locked_down :
    bodies (got (.unlock 1 [0x01, 0x03]) (got (.lockDown 1 [0x01, 0x03]) parked))
      = [.refusal (some 1) (some .lock) .locked, .alert .refused 0x0080] := by decide

theorem test_load_begin_copies :
    (got (.loadBegin 1 [0x01, 0x01]) parked).tables.bank1 = tables.bank0
      ∧ (got (.loadBegin 1 [0x01, 0x01]) parked).tables.inactive = .loading := by decide

/-- The MEDIA entry of the worked run 12.3: code 3 is drawer 3, length 5,100, tolerance 60. -/
theorem test_load_entry_media :
    (got (.loadEntry 1 [0x03, 0x01, 0x03, 0x13, 0xEC, 0x00, 0x3C]) (got (.loadBegin 1 [0x01, 0x01]) parked)).tables.bank1[3]
      = some { drawer := .d3, length := 5100, tolerance := 60, duplexPermitted := false } := by decide

/-- Five references keep the old bank RETIRING; none frees it. -/
theorem test_load_commit_media :
    (got (.loadCommit 1 []) (withLoad (loadOf .media 0 .clean) { parked with tables :=
      { tables with bank1 := tables.bank0, inactive := .loading, refs0 := 5 } })).tables.inactive = .retiring
      ∧ bodies (got (.loadCommit 1 []) (withLoad (loadOf .media 0 .clean) { parked with tables :=
        { tables with bank1 := tables.bank0, inactive := .loading } })) = [.table .media (.committed (some .bank1)) 1] := by
  decide

theorem test_load_commit_early_interrupts :
    bodies (got (.loadCommit 1 []) (withLoad (loadOf (.belt none) 1 .clean) parked))
      = [.alert .loadSequence 0x0100, .table .belt (.discarded .sequence) 1,
         .refusal (some 1) (some .loadCommit) .noLoad, .alert .refused 0x0180] := by decide

theorem test_load_abort :
    bodies (got (.loadAbort 1 []) (withLoad (loadOf (.belt none) 1 .badField) parked))
      = [.table .belt (.discarded .aborted) 1] := by decide

/-! ## Links -/

theorem test_unknown_kind :
    bodies (got (.unknownKindRecord 0x11 1 []) parked) = [.refusal (some 1) none .badField, .alert .refused 0x0080] := by decide

/-- The check of R179 over the ASCII digits 1 to 9 is 29B1 hexadecimal, the known value of this generator and start. -/
theorem test_check_bytes : checkBytes [0x31, 0x32, 0x33, 0x34, 0x35, 0x36, 0x37, 0x38, 0x39] = [0x29, 0xB1] := by decide +kernel

/-- A HALT record's bytes arrive as one frame, and its check holds. -/
theorem test_bytes_arrive :
    let bytes := recordFrame 0x03 7 []
    (bytes.foldl (fun s b => got (.orderLinkByte b) s) parked).intake.rx
        = { frames := [wholeFrame bytes], collecting := none, gap := 0 } ∧ frameGood (wholeFrame bytes) = true := by decide +kernel

/-- A gap ends a partial frame, which then comes up as BAD_FRAME. -/
theorem test_gap_makes_a_bad_frame :
    bodies (got .badFrame (got .interByteGap (got (.orderLinkByte 0xA5) parked)))
      = [.refusal none none .badFrame, .alert .refused 0x0080] := by decide

/-- Two milliseconds between the bytes of a frame leave it, and a third ends it (R179). -/
theorem test_three_milliseconds_end_a_frame :
    let tick (s : State) : State := match step s with | .next t => t | _ => s
    let two := tick (tick (got (.orderLinkByte 0xA5) parked))
    two.intake.rx.collecting.isSome = true ∧ two.intake.rx.frames = []
      ∧ (tick two).intake.rx.frames = [{ bytes := [0xA5], broken := true, headless := false }] := by decide

/-- At a full buffer a sync byte is discarded and its frame begun broken, which then comes up as BAD_FRAME (R181). -/
theorem test_sync_at_a_full_buffer :
    let full := { parked with intake := { parked.intake with
      rx := { frames := [wholeFrame (List.replicate 512 0)], collecting := none, gap := 0 } } }
    let s := got .interByteGap (got (.orderLinkByte 0xA5) full)
    let s' := { s with intake := { s.intake with rx := { s.intake.rx with frames := s.intake.rx.frames.drop 1 } } }
    bodies (got .badFrame s') = [.refusal none none .badFrame, .alert .refused 0x0080] ∧ (got .badFrame s').intake.rx.frames = [] := by
  decide +kernel

/-- An IMAGE FAULT for a pitch in the ring spoils its set. -/
theorem test_image_fault :
    (got (.imageFault 3 7) (withSets [setEntry 1 .sealed 1] releasing)).registry.map (fun e => (e.state, e.reason, e.attempt))
      = [(.spoiled, some .image, 1)] := by decide +kernel

theorem test_image_frame_bad_check :
    (got (.imagerFrameDiscard [0x5A, 0x81, 3, 0, 0, 0, 7, 0, 0]) releasing).registry = [] := by decide +kernel

/-! ## Lines and the collator -/

theorem test_stop_line :
    bodies (got (.stopLineAsserted .panel) running)
      = [.alert .externalStop 0x0008, .jam .externalStop none none none [], .path .stopped true] := by decide
theorem test_stop_line_released :
    (got (.stopLineReleased .panel) (got (.stopLineAsserted .panel) running)).path.state = .stopped
      ∧ (got (.stopLineReleased .panel) (got (.stopLineAsserted .panel) running)).path.stopPanel = false := by decide

/-- R183's table: an open circuit is a stop, a fault and an empty drawer; a lead is a low level; the diverter's two lines. -/
theorem test_senses :
    asserted (.stop .panel) .open = true ∧ asserted .collatorFault .open = true ∧ asserted (.drawerEmpty .d1) .open = true
      ∧ asserted (.sensor .fus) .low = true ∧ asserted .collatorReady .low = true ∧ asserted .shelfEmpty .high = true
      ∧ diverterWires .prg = (.low, .low) ∧ diverterWires .out = (.high, .low) ∧ diverterWires .dxe = (.low, .high) := by decide

/-- A push of set 5 under way, 400 ms into a timeout of 1,000. -/
def pushing : State :=
  withSets [{ setEntry 5 .delivering 2 with collected := 2 }]
    { running with collator := { mode := .pushing, held := some { set := 5, attempt := 0 }, list := []
                                 timer := some { elapsed := 400, timeout := 1000 }, push := true, dump := false } }

theorem test_collator_done :
    bodies (got .collatorDone pushing) = [.setDone 5 0 .delivered 2] ∧ (got .collatorDone pushing).registry = [] := by decide
theorem test_collator_fault : (got .collatorFaultLine pushing).collator.push = false := by decide
theorem test_collator_timer :
    (got .collatorTimerExpiry pushing).report.timeTag = 600 ∧ (got .collatorTimerExpiry running) = running := by decide
theorem test_at_rest : (got .atRest parked).path.silence = 200 := by decide

/-- That push one millisecond before its timeout. -/
def expiring : State := { pushing with collator := { pushing.collator with timer := some { elapsed := 999, timeout := 1000 } } }

/-- The next tick faults the collator, and a done line then delivers nothing (R127, R129, R130). -/
theorem test_timer_expires_by_itself :
    (match step expiring with | .next t => (t.collator.mode, t.path.state, (got .collatorDone t).registry == t.registry)
                              | _ => (.empty, .idle, false)) = (.faulted, .stopped, true) := by decide +kernel

/-! ## Witnesses: states and operands that meet the hypotheses of the statements, clause by clause -/

/-- Parked with n reports queued. -/
def queued (n : Nat) (s : State) : State :=
  { s with report := { s.report with queue := List.replicate n ⟨0, .path .idle false⟩ } }

/-- The timer of a push, 400 ms into 1,000, outlasts 599 ms and no more. -/
theorem witness_milliseconds :
    pushing.pending = [] ∧ timerOutlasts 1 pushing ∧ timerOutlasts 599 pushing ∧ ¬timerOutlasts 600 pushing
      ∧ pushing.path.silence ≤ 200 ∧ timerOutlasts (200 - pushing.path.silence) pushing ∧ 200 ≤ stopped.path.silence
      ∧ timerOutlasts 0 { stopped with collator := pushing.collator } := by
  simp only [timerOutlasts]
  decide

theorem witness_a_command_answers : ∃ t, exec (.sensorChange .out) running = .next t := ⟨_, rfl⟩

theorem witness_step_path_law : PathLaw running ∧ PathLaw stopped ∧ ∃ t, step running = .next t :=
  ⟨by simp only [PathLaw]; decide, by simp only [PathLaw]; decide, _, rfl⟩

/-- Full order queue and full report queue. -/
theorem witness_step_capacities : CapacityLaw (queued 64 fullQueue) ∧ ∃ t, step (queued 64 fullQueue) = .next t :=
  ⟨by simp only [CapacityLaw]; decide, _, rfl⟩

/-- The largest scale, trim, fraction and debt on MAIN. -/
def extreme : State :=
  { parked with counters := { parked.counters with main := { counter 16383 511 0 with fraction := 4095, debt := 255 } } }

theorem witness_step_ranges : CounterLaw extreme ∧ ∃ t, step extreme = .next t :=
  ⟨by simp only [CounterLaw, counterInRange, scaleInRange]
      and_intros <;> first | decide | (intro l h; cases h), _, rfl⟩

/-- A MEDIA load open; two references to the generation in force; a RETIRING bank with one. -/
theorem witness_step_geometry :
    let s := withTracks [track 1 1 .moving none none] { running with
      orders := [order 1 2], tables := { tables with refs0 := 2 } }
    let r := { withTracks [{ track 1 1 .moving none none with gen := .bank1 }] running with
      tables := { tables with refs1 := 1, inactive := .retiring } }
    GeometryLaw (got (.loadBegin 1 [0x01, 0x10]) parked) ∧ ReferenceLaw (got (.loadBegin 1 [0x01, 0x10]) parked)
      ∧ (∃ t, step (got (.loadBegin 1 [0x01, 0x10]) parked) = .next t) ∧ GeometryLaw s ∧ ReferenceLaw s
      ∧ (∃ t, step s = .next t) ∧ ReferenceLaw r := by
  simp only [GeometryLaw, ReferenceLaw, boundTo]
  exact ⟨by decide +kernel, by decide +kernel, ⟨_, rfl⟩, by decide +kernel, by decide +kernel, ⟨_, rfl⟩, by decide +kernel⟩

theorem witness_step_registry :
    RegistryLaw (withSets [setEntry 4 .sealed 64, setEntry 5 .open 1] running)
      ∧ ∃ t, step (withSets [setEntry 4 .sealed 64, setEntry 5 .open 1] running) = .next t :=
  ⟨by simp only [RegistryLaw]; decide, _, rfl⟩

theorem witness_step_collator : PathLaw pushing ∧ CollatorLaw pushing ∧ ∃ t, step pushing = .next t :=
  ⟨by simp only [PathLaw]; decide, by simp only [CollatorLaw]; decide, _, rfl⟩

theorem witness_step_stations :
    StationLaw (edgeDue .fus true 5 running) ∧ ∃ t, step (edgeDue .fus true 5 running) = .next t := by
  refine ⟨⟨?_, ?_⟩, _, rfl⟩
  · intro k hk
    have two : ∀ k ∈ (edgeDue .fus true 5 running).stations.toList,
        k = StationState.reset ∨ k = ⟨true, false, some ⟨true, 5⟩⟩ := by decide
    obtain rfl | rfl := two k hk <;> simp [stationInLaw, StationState.reset]
  · intro h
    exact absurd h (by decide)

/-- The release point reached, its event behind a line change of its travel and before a waiting HALT. -/
theorem witness_step_points :
    let s := { due .release running with pending := [.sensorChange .xfr, .release, .halt 1 []] }
    PointLaw s ∧ ∃ t, step s = .next t :=
  ⟨⟨by decide, [], [.sensorChange .xfr, .release], [.halt 1 []], rfl, .inl rfl, by decide, by decide⟩, _, rfl⟩

/-- The link held by a continuation. -/
def holding : State := got (.sheet 9 (body 5 0 2 0 3)) fullQueue

theorem witness_step_hold : HoldLaw holding ∧ holding.intake.held.isSome = true ∧ ∃ t, step holding = .next t := by
  have hr : holding.intake.held = some (record 5 2 false) := by decide +kernel
  refine ⟨⟨?_, fun h => (by rw [hr] at h; cases h), by decide +kernel⟩, by rw [hr]; rfl, _, rfl⟩
  intro r h
  rw [hr] at h
  obtain rfl : record 5 2 false = r := by simpa using h
  exact ⟨⟨body 5 0 2 0 3, by decide, by decide +kernel⟩, by decide +kernel, by decide +kernel, .inl (by decide +kernel)⟩

/-- A HALT record's frame at the head of a free link's buffer, its turn next. -/
theorem witness_step_turn :
    let s := { parked with
      intake := { parked.intake with rx := { frames := [wholeFrame (recordFrame 0x03 7 [])], collecting := none, gap := 0 } }
      pending := [.halt 7 []] }
    HoldLaw s ∧ s.intake.held = none ∧ ∃ t, step s = .next t := by
  refine ⟨⟨fun r h => (by cases h), fun _ f h => ⟨_, rfl, ?_⟩, by decide⟩, rfl, _, rfl⟩
  obtain rfl : wholeFrame (recordFrame 0x03 7 []) = f := by simpa using h
  have hf : frameFields (wholeFrame (recordFrame 0x03 7 [])) = some (0x03, 7, []) := by decide +kernel
  unfold takesFrame
  rw [hf]
  rfl

/-- Everything latched, one media and one station index LOCKED_DOWN. -/
def lockedDown : State :=
  got (.lockDown 1 [0x01, 0x0F]) (got (.lockDown 1 [0x02, 0x0D])
    { parked with report := { ReportUnit.reset with latch := 0xFFFF } })

theorem witness_only_their_records :
    isPowerOn (.unlock 1 [0x01, 0x0F]) = false ∧ isRunReset (.unlock 1 [0x01, 0x0F]) = false
      ∧ (∃ t, exec (.unlock 1 [0x01, 0x0F]) lockedDown = .next t) ∧ lockedDown.tables.mediaLocks[15] = .lockedDown
      ∧ lockedDown.tables.stationLocks[13] = .lockedDown ∧ hasCondition lockedDown.report.latch .reprintPending = true
      ∧ isPowerOn (.query 1 []) = false ∧ (∃ t, exec (.query 1 []) lockedDown = .next t)
      ∧ (∀ tag body, Instr.query 1 [] ≠ .lock tag body) ∧ (∀ tag rest, Instr.query 1 [] ≠ .unlock tag rest)
      ∧ (∀ tag rest, Instr.query 1 [] ≠ .lockDown tag rest) ∧ (∀ tag body, Instr.query 1 [] ≠ .clearConditions tag body)
      ∧ ∀ tag body, Instr.query 1 [] ≠ .setMask tag body :=
by
  and_intros <;> first | decide | exact ⟨_, rfl⟩ | nofun

/-- A QUERY, and an AT_REST in which a timer expires, so that its reports bear an earlier time tag. -/
theorem witness_reports_join :
    isPowerOn (.query 1 []) = false ∧ isRunReset (.query 1 []) = false ∧ (∃ t, exec (.query 1 []) parked = .next t)
      ∧ isPowerOn .atRest = false ∧ (∀ b, Instr.atRest ≠ .reportTransmit b) ∧ ∃ t, exec .atRest expiring = .next t :=
  ⟨rfl, rfl, ⟨_, rfl⟩, rfl, nofun, _, rfl⟩

theorem witness_stopped_is_left :
    isPowerOn (.resume 1 [] .low) = false ∧ isRunReset (.resume 1 [] .low) = false
      ∧ (∃ t, exec (.resume 1 [] .low) stopped = .next t) ∧ stopped.path.state = .stopped := ⟨rfl, rfl, ⟨_, rfl⟩, rfl⟩

/-- The fault line is read at each of its levels (R183). -/
theorem witness_power_on :
    asserted .collatorFault .low = false ∧ asserted .collatorFault .high = true ∧ asserted .collatorFault .open = true := by
  decide

/-! ### SHEET records -/

theorem media_passes (n seq : Nat) (h : seq ≤ 64) (p : Policy) :
    mediaPasses { tag := 9, sheet := sheetOf n seq, last := false, media := 3, side1 := 7, side2 := none }
      (params .simplex p) tables :=
  ⟨media, rfl, by simp [params], by simp, h⟩

/-- The last order but one of the queue, and a new set in a registry of 15. -/
theorem witness_accept_new_set :
    let s := withSets (List.replicate 15 (setEntry 4 .sealed 1)) { running with orders := List.replicate 31 (order 4 1) }
    recordReady s ∧ s.path.runActive = true ∧ s.path.params = some (params .simplex .strict)
      ∧ parseSheet 9 (body 5 0 1 0 3) = some (record 5 1 false) ∧ noOtherFailed 5 s.registry
      ∧ passesAs .newSet (record 5 1 false) (params .simplex .strict) s ∧ ¬lacksRoom .newSet s ∧ reportRoom 2 (queued 62 s) := by
  simp only [recordReady, linkIdle, noOtherFailed, passesAs, noOtherOpen, keptBack, lacksRoom, lacksEntry, reportRoom]
  and_intros <;> first | decide | exact media_passes 5 1 (by decide) .strict

theorem witness_accept_reprint_start :
    let s := withSets [setEntry 4 .sealed 1, setEntry 5 .awaitingReprint 3] running
    noOtherFailed 5 s.registry ∧ passesAs .reprintStart (record 5 1 false) (params .simplex .strict) s
      ∧ ¬lacksRoom .reprintStart s := by
  simp only [noOtherFailed, passesAs, noOtherOpen, keptBack, lacksRoom, lacksEntry]
  and_intros <;> first | decide | exact media_passes 5 1 (by decide) .strict

/-- The sixty-fourth sheet of a set. -/
theorem witness_accept_continuation :
    let s := withSets [setEntry 5 .open 63] running
    parseSheet 9 (body 5 0 64 0 3) = some (record 5 64 false) ∧ noOtherFailed 5 s.registry
      ∧ passesAs .continuation (record 5 64 false) (params .simplex .strict) s ∧ ¬lacksRoom .continuation s := by
  simp only [noOtherFailed, passesAs, noOtherOpen, lacksRoom, lacksEntry]
  and_intros <;> first | decide | exact media_passes 5 64 (by decide) .strict

theorem witness_sheet_refused_early :
    recordReady parked ∧ reportRoom 2 (queued 62 parked) ∧ parseSheet 9 (body 5 0 0 0 3) = none
      ∧ parseSheet 9 (body 5 0 1 0 16) = none ∧ parseSheet 9 [] = none ∧ parked.path.runActive = false
      ∧ parseSheet 9 (body 5 0 1 0 15) = some { record 5 1 false with media := 15 } := by
  simp only [recordReady, linkIdle, reportRoom]
  decide

theorem witness_sheet_interleaved :
    let s := withSets [setEntry 4 .open 1] running
    parseSheet 9 (body 5 0 1 0 3) = some (record 5 1 false) ∧ s.path.runActive = true
      ∧ noOtherFailed 5 s.registry ∧ sheetAbsorbed (record 5 1 false) s.registry = false
      ∧ ∃ e ∈ s.registry, e.state = .open ∧ e.set ≠ 5 := by
  simp only [noOtherFailed]
  decide

/-- An unknown set: sequence 2 is out of place; a SPOILED set blocks in STRICT; code 4 is undefined; no room in HALTED. -/
theorem witness_sheet_unknown_set :
    let blocked := withSets [setEntry 4 .spoiled 1] running
    let fullHalted := { inPath .halted .simplex .strict parked with orders := List.replicate 32 (order 4 1) }
    ¬((record 5 2 false).sheet.attempt = 0 ∧ (record 5 2 false).sheet.seq = 1)
      ∧ noOtherOpen 5 blocked.registry ∧ (∀ e ∈ blocked.registry, e.set ≠ 5)
      ∧ sheetAbsorbed (record 5 1 false) blocked.registry = false
      ∧ keptBack (params .simplex .strict) blocked.registry ∧ ¬keptBack (params .simplex .strict) running.registry
      ∧ fullHalted.path.state ≠ .running ∧ fullHalted.path.state ≠ .halting
      ∧ (32 ≤ fullHalted.orders.length ∨ 16 ≤ fullHalted.registry.length) ∧ recordReady fullHalted
      ∧ mediaPasses (record 5 1 false) (params .simplex .strict) fullHalted.tables := by
  simp only [noOtherOpen, recordReady, linkIdle, keptBack]
  and_intros <;> first | decide | exact media_passes 5 1 (by decide) .strict

/-- Each refusal of R32: code 4 is undefined; a medium without the duplex permission in DUPLEX; a SIDE-2 image in SIMPLEX; the
sixty-fifth sheet. -/
theorem witness_media_refusals :
    let oneSided := { tables with bank0 := tables.bank0.set 3 (some { media with duplexPermitted := false }) }
    mediaRefusal { record 5 1 false with media := 4 } (params .simplex .strict) tables .unknownMedia
      ∧ mediaRefusal (record 5 1 false) (params .duplex .strict) oneSided .duplexNotPermitted
      ∧ mediaRefusal { record 5 1 false with side2 := some 8 } (params .simplex .strict) tables .duplexNotPermitted
      ∧ mediaRefusal (record 5 65 false) (params .duplex .strict) tables .setTooLong :=
  ⟨rfl, rfl, rfl, by decide, rfl⟩

/-- A known set: an attempt too high; FAILED; AWAITING_REPRINT at sequence 2; SEALED. -/
theorem witness_sheet_known_set :
    (setEntry 5 .sealed 1).attempt < 1
      ∧ findSet 5 (withSets [setEntry 5 .failed 1] running).registry = some (setEntry 5 .failed 1)
      ∧ noOtherFailed 5 [setEntry 5 .failed 1] ∧ noOtherOpen 5 [setEntry 5 .failed 1]
      ∧ sheetAbsorbed (record 5 1 false) [setEntry 5 .failed 1] = false
      ∧ findSet 5 (withSets [setEntry 5 .awaitingReprint 1] running).registry = some (setEntry 5 .awaitingReprint 1)
      ∧ (record 5 2 false).sheet.seq ≠ 1 ∧ ¬keptBack (params .simplex .strict) (older 5 [setEntry 5 .awaitingReprint 1])
      ∧ keptBack (params .simplex .strict) (older 5 [setEntry 4 .spoiled 1, setEntry 5 .awaitingReprint 1])
      ∧ findSet 5 (withSets [setEntry 5 .sealed 1] running).registry = some (setEntry 5 .sealed 1)
      ∧ (record 5 2 false).sheet.attempt ≤ (setEntry 5 .sealed 1).attempt := by
  simp only [noOtherFailed, noOtherOpen, keptBack]
  decide

/-- The OPEN set's third own failure, at attempt 254, its record a sheet back; and the refusals of R32 and of an older attempt. -/
theorem witness_order_spoil :
    let e := { setEntry 5 .open 1 with attempt := 254, ownFailures := 2 }
    let r := { record 5 1 false with sheet := { set := 5, attempt := 254, seq := 1 } }
    let s := withSets [e] (inPath .halting .simplex .relaxed parked)
    recordReady s ∧ reportRoom 7 (queued 57 s) ∧ s.path.runActive = true ∧ s.path.params = some (params .simplex .relaxed)
      ∧ parseSheet 9 (body 5 254 1 0 3) = some r ∧ noOtherFailed 5 s.registry ∧ noOtherOpen 5 s.registry
      ∧ s.registry = [] ++ e :: [] ∧ (s.registry.map (fun x => x.set)).Nodup ∧ absent 5 s
      ∧ openRefusal r e (params .simplex .relaxed) tables .badSequence
      ∧ openRefusal { r with sheet := { set := 5, attempt := 253, seq := 2 } } e (params .simplex .relaxed) tables .badSequence
      ∧ openRefusal (record 5 65 false) (setEntry 5 .open 64) (params .simplex .relaxed) tables .setTooLong
      ∧ openRefusal { record 5 2 false with media := 4 } (setEntry 5 .open 1) (params .simplex .relaxed) tables .unknownMedia := by
  simp only [recordReady, linkIdle, reportRoom, noOtherFailed, noOtherOpen]
  and_intros <;> first | decide | exact .inl (by decide) | exact .inr ⟨by decide, by decide, rfl⟩ | exact .inr ⟨by decide, by decide, by decide, rfl⟩

/-- STRICT: the OPEN set, reopened by a reprint, with a younger SEALED set; behind an older SPOILED set and behind none. -/
theorem witness_order_spoil_strict :
    let e := setEntry 5 .open 1
    let young := [setEntry 6 .sealed 2, setEntry 7 .awaitingReprint 1]
    let s (old : List SetEntry) := withSets (old ++ e :: young) { running with orders := [order 4 2, order 5 1, order 6 1] }
    recordReady (s []) ∧ (s []).path.runActive = true
      ∧ (s []).path.params = some (params .simplex .strict) ∧ (params .simplex .strict).policy = .strict
      ∧ parseSheet 9 (body 5 0 1 0 3) = some (record 5 1 false)
      ∧ openRefusal (record 5 1 false) e (params .simplex .strict) tables .badSequence ∧ e.ownFailures < 2
      ∧ (∀ y ∈ e :: young, y.attempt < 255 ∧ y.failing = false ∧ y.state ≠ .spoiled)
      ∧ (∀ y ∈ hitSets (params .simplex .strict) e young, absent y.set (s [])) ∧ reportRoom (8 + 2) (queued 54 (s []))
      ∧ (∀ old ∈ [[setEntry 4 .sealed 2], [setEntry 4 .spoiled 2]],
          noOtherFailed 5 (s old).registry ∧ noOtherOpen 5 (s old).registry
            ∧ ((s old).registry.map (fun x => x.set)).Nodup)
      ∧ (∀ o ∈ [setEntry 4 .sealed 2], o.state ≠ .spoiled) ∧ ∃ o ∈ [setEntry 4 .spoiled 2], o.state = .spoiled := by
  simp only [recordReady, linkIdle, reportRoom, noOtherFailed, noOtherOpen, openRefusal]
  and_intros <;> first | decide | exact .inl (by decide)

/-- Sheets 1 and 2 of the OPEN set 5 in the path, the second bound for OUT, the collator COLLECTING its first. -/
def collectingFive (p : Policy) : State :=
  let late := { track 5 2 .moving (some .out) (some 9) with dest := .out }
  withSets [setEntry 5 .open 3, setEntry 6 .sealed 1] (withTracks [late] { inPath .running .simplex p parked with
    collator := { Collator.reset with
      mode := .collecting, held := some { set := 5, attempt := 0 }, list := [{ tag := 9, sheet := sheetOf 5 1, last := false }] } })

/-- A spoil that leaves its set SPOILED, in either policy; the collator keeps the set while a sheet of it is bound for OUT, and
dumps it where that sheet has been decided for another exit; the younger set without a sheet drains and is held. -/
theorem witness_spoil_stands :
    let e := setEntry 5 .open 3
    let young := [setEntry 6 .sealed 1]
    let s := collectingFive .strict
    let elsewhere := withTracks [{ track 5 2 .moving (some .prg) (some 9) with dest := .prg }] s
    (∀ p ∈ [Policy.strict, .relaxed], spoilStands (params .simplex p) [] e young (collectingFive p))
      ∧ reportRoom 3 (queued 61 s) ∧ s.tracker.table ≠ []
      ∧ (afterSpoil .order (params .simplex .strict) [] e young s).collator = s.collator
      ∧ (afterSpoil .order (params .simplex .strict) [] e young elsewhere).collator.mode = .dumping
      ∧ (afterSpoil .order (params .simplex .strict) [] e young s).registry.map (fun x => (x.state, x.reason, x.drained))
        = [(.spoiled, some .order, false), (.spoiled, some .cascade, true)] := by
  simp only [reportRoom, spoilStands]
  decide

theorem witness_absorbed :
    let e := { setEntry 5 .spoiled 1 with attempt := 1 }
    let s := withSets [setEntry 4 .failed 1, e] running
    recordReady s ∧ s.path.runActive = true ∧ parseSheet 9 (body 5 0 2 0 3) = some (record 5 2 false)
      ∧ findSet 5 s.registry = some e ∧ s.path.state ≠ .halting ∧ (record 5 2 false).sheet.attempt < e.attempt := by
  simp only [recordReady, linkIdle]
  decide

/-- The order queue full in RUNNING and in HALTED; and a new set at a full registry, an entry SEALED and none. -/
theorem witness_held :
    let full (st : SetState) := withSets ((List.range 16).map (fun i => setEntry (10 + i) st 1)) running
    let halted := inPath .halted .simplex .strict fullQueue
    recordReady fullQueue ∧ moving fullQueue ∧ parseSheet 9 (body 5 0 2 0 3) = some (record 5 2 false)
      ∧ noOtherFailed 5 fullQueue.registry ∧ lacksRoom .continuation fullQueue ∧ holdEnds .continuation fullQueue
      ∧ passesAs .continuation (record 5 2 false) (params .simplex .strict) fullQueue ∧ ¬holdEnds .continuation halted
      ∧ passesAs .newSet (record 5 1 false) (params .simplex .strict) (full .sealed) ∧ lacksEntry .newSet (full .sealed)
      ∧ holdEnds .newSet (full .sealed)
      ∧ passesAs .newSet (record 5 1 false) (params .simplex .relaxed) (full .awaitingReprint)
      ∧ ¬holdEnds .newSet (full .awaitingReprint) := by
  simp only [recordReady, linkIdle, noOtherFailed, holdEnds, moving, passesAs, noOtherOpen, keptBack, lacksRoom, lacksEntry]
  and_intros <;> first | decide +kernel | exact media_passes 5 _ (by decide) _

theorem witness_held_link :
    holding.intake.held.isSome = true ∧ isRecord (.runReset 1 [] .high) = true
      ∧ ∃ t, exec (.runReset 1 [] .high) holding = .next t := ⟨by decide, rfl, _, rfl⟩

/-- The held continuation with the queue full, with one place free, and in HALTED with the queue full; and its set withdrawn. -/
theorem witness_held_retry :
    let free := { holding with orders := holding.orders.drop 1 }
    let withdrawn := withSets [{ setEntry 5 .spoiled 2 with attempt := 1 }] holding
    running.intake.held = none ∧ holding.intake.held = some (record 5 2 false)
      ∧ holding.path.params = some (params .simplex .strict)
      ∧ passesAs .continuation (record 5 2 false) (params .simplex .strict) holding
      ∧ lacksRoom .continuation holding ∧ holdEnds .continuation holding ∧ ¬lacksRoom .continuation free
      ∧ ¬holdEnds .continuation (inPath .halted .simplex .strict holding) ∧ reportRoom 2 (queued 62 holding)
      ∧ findSet 5 withdrawn.registry = some { setEntry 5 .spoiled 2 with attempt := 1 } := by
  have : holding.tables = tables := by decide
  simp only [holdEnds, moving, passesAs, noOtherOpen, lacksRoom, lacksEntry, reportRoom]
  and_intros <;> first | decide +kernel | exact this ▸ media_passes 5 2 (by decide) .strict

/-! ### The run's records -/

/-- The largest gap, and the smallest and largest timeouts. -/
theorem witness_start_run :
    asserted .shelfEmpty .high = true ∧ asserted .collatorReady .low = true
      ∧ recordReady parked ∧ parked.path.state = .idle ∧ { params .duplex .strict with setGap := 3, timeout := 5000 }.setGap ≤ 3
      ∧ (100 : Nat) ≤ { params .duplex .strict with setGap := 3, timeout := 100 }.timeout
      ∧ { params .duplex .strict with setGap := 3, timeout := 5000 }.timeout ≤ 5000
      ∧ parked.tables.station.isSome = true ∧ parked.tables.segment.isSome = true ∧ parked.tables.belt.isSome = true
      ∧ (∃ i : Fin 16, (bankEntries parked.tables parked.tables.active)[i].isSome = true) ∧ linesClear parked
      ∧ parked.collator.mode = .empty ∧ stopSetActive parked.path = false ∧ reportRoom 1 (queued 63 parked) := by
  simp only [recordReady, linkIdle, linesClear, reportRoom]
  decide

/-- Each refusal of the table: a path not IDLE; a body of 4 bytes; a gap of 4 and timeouts of 99 and 5,001; no tables;
an occupied shelf tray. -/
theorem witness_start_run_refused :
    recordReady running ∧ reportRoom 2 (queued 62 running) ∧ running.path.state ≠ .idle ∧ parseStartRun [1, 1, 0, 0] = none
      ∧ parseStartRun [1, 1, 4, 3, 0xE8] = some { params .simplex .strict with setGap := 4 }
      ∧ parseStartRun [1, 1, 1, 0, 0x63] = some { params .simplex .strict with timeout := 99 }
      ∧ parseStartRun [1, 1, 1, 0x13, 0x89] = some { params .simplex .strict with timeout := 5001 }
      ∧ recordReady State.reset ∧ State.reset.tables.station.isSome = false
      ∧ parseStartRun [1, 1, 1, 3, 0xE8] = some (params .simplex .strict)
      ∧ ¬(linesClear parked ∧ asserted .shelfEmpty .low = true) := by
  simp only [recordReady, linkIdle, reportRoom]
  and_intros <;> first | decide | exact fun h => absurd h.2 (by decide)

theorem witness_halt :
    recordReady running ∧ reportRoom 3 (queued 61 running) ∧ haltable running ∧ running.path.state = .running
      ∧ ¬haltable (withTracks [track 1 1 .staged none none] running)
      ∧ (inPath .halting .simplex .strict parked).path.state = .halting
      ∧ (inPath .halted .simplex .strict parked).path.state = .halted ∧ parked.path.state = .idle
      ∧ stopped.path.state = .stopped := by
  refine ⟨⟨⟨rfl, rfl, rfl⟩, rfl⟩, by simp only [reportRoom]; decide, by simp only [haltable]; decide, rfl, ?_, rfl, rfl, rfl, rfl⟩
  intro h
  exact absurd h.2.1 (by decide)

/-- HALTED with JAM latched, with a set in the collator, with the ready line high, and clear; HALTING. -/
theorem witness_resume :
    let s := inPath .halted .simplex .strict parked
    recordReady s ∧ reportRoom 2 (queued 62 s) ∧ s.path.state = .halted
      ∧ hasCondition (0x0001 : BitVec 16) .jam = true ∧ hasCondition (0x0002 : BitVec 16) .beltSlip = true
      ∧ ¬(pushing.collator.mode = .empty) ∧ stopConditionLatched s.report.latch = false
      ∧ asserted .collatorReady .high = false ∧ asserted .collatorReady .low = true
      ∧ s.collator.mode = .empty ∧ stopSetActive s.path = false := by
  simp only [recordReady, linkIdle, reportRoom]
  decide

theorem witness_end_run :
    let s := withSets [setEntry 5 .failed 1, setEntry 6 .sealed 2] (inPath .halted .simplex .strict parked)
    recordReady s ∧ s.path.state = .halted ∧ s.collator.mode = .empty ∧ reportRoom (s.registry.length + 1) (queued 61 s)
      ∧ pushing.collator.mode ≠ .empty ∧ running.path.state ≠ .halted ∧ reportRoom 2 running := by
  simp only [recordReady, linkIdle, reportRoom]
  decide

theorem witness_path_cleared_judged :
    asserted .shelfEmpty .high = true ∧ asserted .shelfEmpty .low = false
      ∧ recordReady running ∧ reportRoom 2 (queued 62 running) ∧ running.path.state ≠ .stopped ∧ recordReady stopped
      ∧ stopped.path.state = .stopped ∧ 200 ≤ stopped.path.silence ∧ linesClear stopped
      ∧ stopped.path.stopUpstream = false ∧ stopped.path.stopCollator = false ∧ stopped.path.stopPanel = false
      ∧ ¬(200 ≤ { stopped with path := { stopped.path with silence := 199 } }.path.silence) := by
  simp only [recordReady, linkIdle, linesClear, reportRoom]
  decide

/-- STOPPED with each state of the collator, ready and not; no set number stands twice. -/
theorem witness_path_cleared_recovers :
    asserted .shelfEmpty .high = true ∧ recordReady stopped ∧ stopped.path.state = .stopped ∧ 200 ≤ stopped.path.silence
      ∧ linesClear stopped ∧ lineStopActive stopped.path = false ∧ (stopped.registry.map (fun e => e.set)).Nodup
      ∧ { stopped with collator := { Collator.reset with mode := .collecting } }.collator.mode = .collecting
      ∧ { stopped with collator := pushing.collator }.collator.mode = .pushing
      ∧ { stopped with collator := { Collator.reset with mode := .faulted } }.collator.mode = .faulted
      ∧ asserted .collatorReady .low = true ∧ asserted .collatorReady .high = false := by
  simp only [recordReady, linkIdle, linesClear]
  decide

/-- Set 2's sheet stranded and named, set 1 delivering and the run RELAXED; and, in STRICT, set 2 stranded between set 1 and
a younger OPEN set, all of them withdrawn sets' REPRINTs queued. -/
theorem witness_stranding :
    let named (p : Policy) (s : State) : State := withTracks [track 2 1 .stranded none none] { s with
      path := { s.path with
        params := some (params .simplex p)
        stopRecord := some { cause := .leadOverdue, station := some .fus, named := some { tag := 9, sheet := sheetOf 2 1 }
                             deviation := none } }
      tables := { s.tables with refs0 := 1 } }
    let r := withSets [setEntry 1 .delivering 1, setEntry 2 .sealed 1] (named .relaxed stopped)
    let s := withSets [setEntry 1 .sealed 1, setEntry 2 .sealed 1, setEntry 3 .open 1] (named .strict stopped)
    let t := got (.pathCleared 1 [] .high .low) s
    ReferenceLaw r ∧ ReferenceLaw s ∧ (r.registry.map (fun e => e.set)).Nodup ∧ (∀ e ∈ r.registry, e.attempt < 255)
      ∧ (s.registry.map (fun e => e.set)).Nodup ∧ (∀ e ∈ s.registry, e.attempt < 255) ∧ t.collator.mode = .empty
      ∧ (∃ x ∈ s.tracker.table, x.sheet.set = 2) ∧ canSpoil (setEntry 2 .sealed 1)
      ∧ (∀ o ∈ s.registry, o.state ≠ .spoiled) ∧ reportRoom (s.registry.length + 8) s
      ∧ t.registry.map (fun e => (e.set.toNat, e.state, e.reason, e.ownFailures))
        = [(1, .sealed, none, 0), (2, .awaitingReprint, some .stranded, 1), (3, .awaitingReprint, some .cascade, 0)] := by
  simp only [ReferenceLaw, boundTo, reportRoom]
  decide +kernel

/-- A MEDIA load open, another load open, a RETIRING bank; a clear path, and one with a sensor blocked or paper on the shelf. -/
theorem witness_run_reset :
    let open_ (l : Load) := { withLoad l running with
      tables := { tables with inactive := if l.buffer = .media then .loading else .free } }
    linkIdle (withLoad (loadOf .media 1 .clean) running) ∧ linesClear running
      ∧ ¬(linesClear (edgeDue .out true 0 running)) ∧ asserted .shelfEmpty .high = true ∧ asserted .shelfEmpty .low = false
      ∧ GeometryLaw (open_ (loadOf .media 1 .clean)) ∧ ReferenceLaw (open_ (loadOf .media 1 .clean))
      ∧ GeometryLaw (open_ (loadOf (.belt none) 1 .clean)) ∧ (loadOf (.belt none) 1 .clean).buffer ≠ .media
      ∧ tables.inactive ≠ .retiring := by
  simp only [linkIdle, linesClear, GeometryLaw, ReferenceLaw, boundTo]
  decide +kernel

/-! ### Conditions, reports and tables -/

theorem witness_query : recordReady stopped ∧ reportRoom 1 (queued 63 stopped) := by
  simp only [recordReady, linkIdle, reportRoom]
  decide

/-- Segment code 2; trims -512, 511 and just outside, with the segment table and after reset without one. -/
theorem witness_mask_clear_trim :
    recordReady parked ∧ parked.tables.segment.isSome = true ∧ reportRoom 2 (queued 62 parked) ∧ [(0 : Byte)].length ≠ 2
      ∧ [(0 : Byte)].length ≠ 3 ∧ 1 < (2 : Byte).toNat ∧ (-512 ≤ (-512 : Int) ∧ (511 : Int) ≤ 511)
      ∧ ((-513 : Int) < -512 ∧ (511 : Int) < 512) ∧ (-32768 ≤ (-513 : Int) ∧ (512 : Int) ≤ 32767) ∧ recordReady State.reset
      ∧ State.reset.tables.segment = none ∧ reportRoom 2 (queued 62 State.reset) := by
  simp only [recordReady, linkIdle, reportRoom]
  decide

theorem witness_transmission : parked.report.queue = [] ∧ (queued 1 parked).report.queue = ⟨0, .path .idle false⟩ :: [] := by decide

/-- The lowest and highest indexes; operation 4, table 3, index 16 of MEDIA and 14 of STATION. -/
theorem witness_locks :
    recordReady parked ∧ recordReady lockedDown ∧ reportRoom 2 (queued 62 lockedDown)
      ∧ lockedDown.tables.mediaLocks[15] = .lockedDown ∧ lockedDown.tables.stationLocks[13] = .lockedDown
      ∧ parked.tables.mediaLocks[0] ≠ .lockedDown ∧ parked.tables.stationLocks[0] ≠ .lockedDown
      ∧ [(1 : Byte), 1].length ≠ 3 ∧ [(1 : Byte)].length ≠ 2 ∧ 3 < (4 : Byte).toNat ∧ 2 < (3 : Byte).toNat
      ∧ (0 : Byte).toNat = 0
      ∧ 15 < (16 : Byte).toNat ∧ 13 < (14 : Byte).toNat ∧ ¬(15 < (15 : Byte).toNat) ∧ ¬(13 < (13 : Byte).toNat) := by
  simp only [recordReady, linkIdle, reportRoom]
  decide

/-- Counts 1 and 16, 0 and 17; table codes 1 and 4, 0 and 5; a parked and a moving path; a RETIRING bank. -/
theorem witness_load_begin :
    recordReady parked ∧ (1 : Byte).toNat = 1 ∧ (16 : Byte).toNat ≤ 16 ∧ parked.tables.inactive ≠ .retiring
      ∧ parked.path.state = .idle ∧ (inPath .halted .simplex .strict parked).path.state = .halted
      ∧ { tables with inactive := .retiring }.inactive = .retiring ∧ reportRoom 2 (queued 62 parked)
      ∧ ¬(running.path.state = .idle ∨ running.path.state = .halted) ∧ recordReady running
      ∧ (0 : Byte).toNat = 0 ∧ 16 < (17 : Byte).toNat ∧ (4 : Byte).toNat ≤ 4 ∧ 4 < (5 : Byte).toNat
      ∧ [(1 : Byte)].length ≠ 2 := by
  simp only [recordReady, linkIdle, reportRoom]
  decide

/-- The bytes of a STATION entry for index 13 with the largest values, and of entries of the other tables. -/
def stationBody : List Byte := [0x0D, 0x03, 0xFF, 0xFF, 0x3F, 0x07, 0xFF, 0x1F, 0x4E, 0x20]

theorem witness_load_entry :
    let s := withLoad (loadOf (.station (Vector.replicate 14 none)) 1 .clean) parked
    linkIdle s ∧ s.intake.load = some (loadOf (.station (Vector.replicate 14 none)) 1 .clean)
      ∧ 0 < (loadOf .media 1 .clean).remaining ∧ stationBody.length = 10 ∧ fieldNat stationBody 0 1 = 13
      ∧ parseStationEntry stationBody = some (entry 262143 63 2047 31 20000)
      ∧ parked.tables.stationLocks[13] = .unlocked ∧ lockedDown.tables.stationLocks[13] ≠ .unlocked
      ∧ 13 < fieldNat [0x0E] 0 1 ∧ parseStationEntry [0x00, 0x04, 0, 0, 0, 0, 8, 0, 0, 0] = none
      ∧ (parseSegmentEntry [0x01, 0x04, 0x00, 11, 12, 63, 1]).isSome = true ∧ fieldNat [0x01] 0 1 = 1
      ∧ (parseBeltEntry [0, 0x0B, 0x33, 0, 0xC4, 0xE0, 7, 0x1B, 0x58, 2, 0x58, 0, 40, 0, 0x36, 0xB0, 1, 0x2C, 3, 0x20]).isSome = true
      ∧ (parseMediaEntry [0x0F, 0x01, 0x04, 0x1F, 0x40, 0x01, 0x90]).isSome = true
      ∧ parked.tables.mediaLocks[15] = .unlocked := by
  simp only [linkIdle]
  decide

/-- Each table's entry that marks its load: too long, past the last index, a field out of range; and LOCKED indexes. -/
theorem witness_load_entry_bad :
    let s := withLoad (loadOf (.segment none none) 16 .clean) parked
    let b := withLoad (loadOf (.belt none) 16 .badLocked) parked
    let m := withLoad (loadOf .media 16 .clean) lockedDown
    linkIdle s ∧ linkIdle b ∧ linkIdle m ∧ 0 < (loadOf .media 16 .clean).remaining
      ∧ (loadOf (.segment none none) 16 .clean).buffer = .segment none none
      ∧ (stationBody ++ [0]).length ≠ 10 ∧ 1 < fieldNat [0x02] 0 1 ∧ 0 < fieldNat [0x01] 0 1 ∧ 15 < fieldNat [0x10] 0 1
      ∧ parseSegmentEntry [0x00, 0x03, 0xFF, 5, 7, 0, 0] = none
      ∧ parseBeltEntry [0, 0x03, 0xFF, 0, 0xC4, 0xE0, 7, 0x1B, 0x58, 2, 0x58, 0, 40, 0, 0x36, 0xB0, 1, 0x2C, 3, 0x20] = none
      ∧ parseMediaEntry [0x0F, 0x01, 0x05, 0x1F, 0x40, 0x01, 0x90] = none
      ∧ (parseMediaEntry [0x0F, 0x00, 0, 0, 0, 0, 0]).isSome = true
      ∧ m.tables.mediaLocks[15] ≠ .unlocked ∧ fieldNat [0x0F, 0x01, 0x04, 0x1F, 0x40, 0x01, 0x90] 0 1 = 15
      ∧ (loadOf (.belt none) 16 .badLocked).mark ≠ .clean ∧ fieldNat [0x00] 0 1 = 0 := by
  simp only [linkIdle]
  decide

/-- Each reason of a discarded STATION load, and a complete one; the BELT load at the largest W; a MEDIA load. -/
theorem witness_load_commit :
    linkIdle (withLoad (loadOf (.belt (some belt)) 0 .clean) parked) ∧ (loadOf (.belt (some belt)) 0 .clean).remaining = 0
      ∧ reportRoom 2 (queued 62 parked) ∧ (loadOf .media 0 .badField).mark = .badField
      ∧ (loadOf .media 0 .badLocked).mark = .badLocked ∧ ¬(running.path.state = .idle ∨ running.path.state = .halted)
      ∧ (∃ i : Fin 14, (Vector.replicate 14 (none : Option StationEntry))[i] = none)
      ∧ (∀ i : Fin 14, (definedEntries stations)[i] = some stations[i]) ∧ checkStation stations parked.tables = true
      ∧ checkStation (stations.set 6 (entry 9000 0 40 6 0)) parked.tables = false
      ∧ checkBelt { belt with writeToRelease := 49000 } parked.tables = true
      ∧ checkBelt { belt with writeToRelease := 49001 } parked.tables = false
      ∧ checkMedia { tables with bank1 := (Vector.replicate 16 none).set 0 (some { media with length := 6200 }) } = true
      ∧ checkMedia { tables with bank1 := (Vector.replicate 16 none).set 0 (some { media with length := 6201 }) } = false := by
  simp only [linkIdle, reportRoom]
  decide +kernel

/-- Discards of a SEGMENT load and of a BELT load; of a MEDIA load for a LOCKED index, its bank LOADING. -/
theorem witness_load_discards :
    let s := withLoad (loadOf (.segment (some segments.main) none) 0 .clean) parked
    let m := withLoad (loadOf .media 0 .badLocked) { running with tables := { tables with inactive := .loading } }
    linkIdle s ∧ s.intake.load = some (loadOf (.segment (some segments.main) none) 0 .clean)
      ∧ ((some segments.main = none) ∨ (none : Option SegmentEntry) = none)
      ∧ checkSegment ⟨{ segments.main with trimA := .fus, trimB := .reg }, segments.duplex⟩ parked.tables = false
      ∧ (loadOf (.belt none) 0 .clean).buffer = .belt none ∧ (loadOf (.belt none) 0 .clean).buffer ≠ .media
      ∧ linkIdle m ∧ (loadOf .media 0 .badLocked).mark = .badLocked := by
  simp only [linkIdle]
  decide +kernel

theorem witness_segment_commit :
    let l := loadOf (.segment (some segments.main) (some segments.duplex)) 0 .clean
    linkIdle (withLoad l parked) ∧ (withLoad l parked).intake.load = some l ∧ l.remaining = 0 ∧ l.mark = .clean
      ∧ parked.path.state = .idle ∧ checkSegment ⟨segments.main, segments.duplex⟩ parked.tables = true
      ∧ reportRoom 1 (queued 63 parked) ∧ (∃ t, exec (.loadCommit 1 []) (withLoad (loadOf (.belt none) 0 .clean) parked) = .next t)
      ∧ (parseSegmentEntry [0x01, 0x04, 0x00, 11, 12, 63, 1]).isSome = true ∧ fieldNat [0x01] 0 1 ≤ 1 := by
  simp only [linkIdle, reportRoom]
  and_intros <;> first | decide | exact ⟨_, rfl⟩

theorem witness_load_abort :
    linkIdle (withLoad (loadOf .media 16 .badField) parked) ∧ reportRoom 1 (queued 63 parked) ∧ recordReady parked
      ∧ reportRoom 2 (queued 62 parked) := by
  simp only [recordReady, linkIdle, reportRoom]
  decide

/-- Kinds 0 and 17; bodies where a kind has none; and what interrupts a load with entries remaining and with none. -/
theorem witness_unknown_kind :
    linkIdle (withLoad (loadOf .media 16 .badField) parked) ∧ (0x00 : Byte).toNat = 0 ∧ 16 < (0x11 : Byte).toNat
      ∧ recordReady parked ∧ reportRoom 2 (queued 62 parked) ∧ reportRoom 4 (queued 60 parked) ∧ [(0 : Byte)] ≠ []
      ∧ interrupts 16 (.query 1 []) ∧ recordTag (.query 1 []) = some 1 ∧ interrupts 0 (.loadEntry 1 [])
      ∧ ¬interrupts 1 (.loadEntry 1 []) ∧ interrupts 1 (.loadCommit 1 []) ∧ ¬interrupts 0 (.loadCommit 1 [])
      ∧ interrupts 0 (.loadAbort 1 [0]) ∧ ¬interrupts 1 (.loadAbort 1 []) ∧ ¬interrupts 1 (.runReset 1 [] .high)
      ∧ interrupts 16 (.loadBegin 1 [0x01, 0x01]) ∧ interrupts 16 (.unknownKindRecord 0x11 1 [])
      ∧ ¬interrupts 16 .heldSheetRetry ∧ ∀ b, Instr.query 1 [] ≠ .loadBegin 1 b := by
  simp only [linkIdle, reportRoom, recordReady, interrupts]
  and_intros <;> first | decide | nofun

/-! ### Links -/

/-- A frame with a wrong check and no later sync byte; a headless one; a good frame; a buffer of 511 and of 512 bytes with
the last byte of a frame still to come, its third byte, or none. -/
theorem witness_link_bytes :
    let wrong : Frame := wholeFrame [0xA5, 0x03, 0x00, 0x00, 0x01, 0x00, 0x00]
    let headless : Frame := { bytes := [0x03, 0x00], broken := true, headless := true }
    let c : Collecting := { bytes := [0xA5, 3, 0, 0, 1, 2], arrived := 6, bodyLen := some 0, broken := false, headless := false }
    let early : Collecting := { bytes := [0xA5, 3], arrived := 2, bodyLen := none, broken := false, headless := false }
    let rx (n : Nat) : Receiver := { frames := [wholeFrame (List.replicate n 0)], collecting := some c, gap := 0 }
    frameGood wrong = false ∧ (∀ b ∈ wrong.bytes.drop 1, b ≠ 0xA5) ∧ wrong.headless = false
      ∧ frameGood headless = false ∧ (∀ b ∈ headless.bytes.drop 1, b ≠ 0xA5) ∧ headless.bytes.head? ≠ some 0xA5
      ∧ reportRoom 2 (queued 62 parked)
      ∧ holding.intake.held.isSome = true ∧ frameGood (wholeFrame (recordFrame 0x03 7 [])) = true
      ∧ parked.intake.rx.collecting = none ∧ (0x00 : Byte) ≠ 0xA5 ∧ receiverUsed parked.intake.rx < 512
      ∧ ¬receiverUsed { frames := [wholeFrame (List.replicate 512 0)], collecting := none, gap := 0 } < 512
      ∧ c.arrived + 1 = 0 + 7 ∧ early.arrived = 2 ∧ early.arrived + 1 ≠ (0 : Byte).toNat + 7
      ∧ receiverUsed (rx 505) < 512 ∧ ¬receiverUsed (rx 506) < 512
      ∧ (rx 0).gap < 2 ∧ { rx 0 with gap := 2 }.gap ≤ 2 ∧ parked.pending = [] := by
  simp only [reportRoom]
  decide +kernel

/-- 250 bytes waiting leave room for a frame of the largest size; 251 do not. -/
theorem witness_sent_record :
    partReady { parked.intake with rx := { frames := [wholeFrame (List.replicate 250 0)], collecting := none, gap := 0 } } = true
      ∧ partReady { parked.intake with rx := { frames := [wholeFrame (List.replicate 251 0)], collecting := none, gap := 0 } } = false
      ∧ (List.replicate 255 (0 : Byte)).length ≤ 255 := by decide +kernel

theorem witness_sheet_body :
    { sheetOf 1 255 with attempt := 255 }.attempt ≤ 255 ∧ 1 ≤ (sheetOf 1 1).seq ∧ (sheetOf 1 255).seq ≤ 255 := by decide

theorem witness_imager :
    let x : RingEntry := { pitch := 3, tag := 9, sheet := sheetOf 1 1, handle := some 7, release := 27024 }
    let s := withSets [setEntry 1 .sealed 1, setEntry 2 .sealed 1] releasing
    releasing.imager.rx = [] ∧ (∀ y ∈ releasing.sched.ring, ¬(y.pitch = (4 : Byte).toNat ∧ y.handle = some 7))
      ∧ releasing.sched.ring = [] ++ x :: [] ∧ x.pitch = (3 : Byte).toNat
      ∧ (∀ e ∈ releasing.registry, e.set = x.sheet.set → e.state ≠ .open ∧ e.state ≠ .sealed ∧ e.state ≠ .delivering)
      ∧ reportRoom 1 (queued 63 releasing) ∧ faultOf [0x5A, 0x81, 3, 0, 0, 0, 7, 0, 0] = none
      ∧ spoilStands (params .simplex .strict) [] (setEntry 1 .sealed 1) [setEntry 2 .sealed 1] s ∧ s.sched.ring = [] ++ x :: []
      ∧ (setEntry 1 .sealed 1).set = x.sheet.set ∧ reportRoom 2 (queued 62 s) := by
  simp only [reportRoom, spoilStands]
  decide +kernel

/-! ### Travel and edges -/

/-- Debt 1; no scale; the smallest and largest effective scales with the largest fraction. -/
theorem witness_forward :
    0 < { counter 2867 0 0 with debt := 1 }.debt ∧ Counter.reset.debt = 0 ∧ Counter.reset.nominal = none
      ∧ (let k := { counter 1024 (-512) 0 with fraction := 4095 }
         k.debt = 0 ∧ k.nominal = some 1024 ∧ k.fraction ≤ 4095 ∧ 512 ≤ ((1024 : Nat) : Int) + k.trim
          ∧ ((1024 : Nat) : Int) + k.trim ≤ 16894)
      ∧ (let k := { counter 16383 511 0 with fraction := 4095 }
         k.debt = 0 ∧ k.nominal = some 16383 ∧ k.fraction ≤ 4095 ∧ 512 ≤ ((16383 : Nat) : Int) + k.trim
          ∧ ((16383 : Nat) : Int) + k.trim ≤ 16894) := by decide

theorem witness_reverse :
    isPowerOn (.reverseCount .belt) = false ∧ (∀ l m, Instr.reverseCount .belt ≠ .forwardCount ⟨.belt, l, m⟩)
      ∧ ∃ t, exec (.reverseCount .belt) parked = .next t := ⟨rfl, by simp, _, rfl⟩

/-- No station table; an edge pending; none pending, with H the smallest above 0, and with H = 0 at DXS. -/
theorem witness_sensor :
    State.reset.tables.station = none ∧ parked.tables.station = some stations
      ∧ (edgeDue .fus true 5 parked).stations[stationId .fus].edge = some ⟨true, 5⟩
      ∧ parked.stations[stationId .dxe].edge = none ∧ 0 < stations[stationId .dxe].debounce
      ∧ parked.stations[stationId .dxs].edge = none ∧ stations[stationId .dxs].debounce = 0
      ∧ ∀ q ∈ parked.points, q.event ≠ .debounce .dxs := by decide

theorem witness_debounce :
    ¬pointReached (.debounce .fus) parked ∧ pointReached (.debounce .reg) (edgeDue .reg false 5 running)
      ∧ (edgeDue .reg false 5 running).stations[stationId .reg].edge = some ⟨false, 5⟩
      ∧ pointReached (.debounce .fus) (edgeDue .fus true 5 parked) ∧ parked.path.state ≠ .running
      ∧ parked.path.state ≠ .halting := by
  simp only [pointReached]
  decide

/-- XFR's window is 40: −41 and +41. -/
theorem witness_lead_outside :
    (toXfr 500041).path.state = .running ∧ (toXfr 500041).tables.station = some stations
      ∧ pointReached (.debounce .xfr) (toXfr 500041)
      ∧ (toXfr 500041).stations[stationId .xfr].edge = some ⟨true, 500041⟩
      ∧ (toXfr 500041).stations[stationId .xfr].level = false ∧ reportRoom 3 (queued 61 (toXfr 500041))
      ∧ (toXfr 500041).tracker.table = [track 1 1 .moving (some .xfr) (some 500000)]
      ∧ (stations[stationId .xfr].window : Int) < travelDiff 500041 500000
      ∧ travelDiff 499959 500000 < -(stations[stationId .xfr].window : Int)
      ∧ (∀ y ∈ (edgeDue .xfr true 5 running).tracker.table, ¬(y.next = some .xfr ∧ y.expected.isSome = true)) := by
  simp only [pointReached, reportRoom]
  decide

/-- The edge of a lead for y at its station, other sheets before and after it in the table. -/
def leading (st : Station) (raw : Pos) (before : List Track) (y : Track) (after : List Track) : State :=
  edgeDue st true raw (withTracks (before ++ y :: after) running)

/-- A lead on time for y in that state. -/
def leads (st : Station) (raw x : Pos) (before : List Track) (y : Track) (after : List Track) : Prop :=
  leadOnTime st raw x y before after stations (leading st raw before y after)

theorem witness_on_time_lead_holds :
    (bankEntries running.tables .bank0)[(3 : Fin 16)] = some media ∧ running.path.params = some (params .simplex .strict)
      ∧ running.tables.segment = some segments ∧ reportRoom 4 (queued 60 running) := by
  simp only [reportRoom]
  decide

/-- At D2X, REG and XFR: alone; with a second sheet being fed from the drawer, expected behind; with another STAGED; and at the
edges of the window. -/
theorem witness_on_time_lead :
    leads .d2x 960 1000 [] (track 1 1 .feeding (some .d2x) (some 1000)) [] ∧ Station.d2x = sourceExit (.drawer .d2) ∧ (track 1 2 .feeding (some .d2x) (some 8000)).state = .feeding
      ∧ leads .reg 500 300 [] (track 1 2 .approaching (some .reg) (some 300)) []
      ∧ leads .reg 100 300 [track 1 1 .staged none none] (track 1 2 .approaching (some .reg) (some 300)) []
      ∧ leads .xfr 500040 500000 [track 1 1 .moving (some .fus) (some 500000)] (track 1 2 .moving (some .xfr) (some 500000)) [] := by
  simp only [leads, leadOnTime, moving, edgeReady, pointReached]
  and_intros <;> decide +kernel

/-- At D2X with a second sheet being fed from the drawer, expected 7,000 behind. -/
theorem witness_on_time_lead_among :
    leads .d2x 1040 1000 [] (track 1 1 .feeding (some .d2x) (some 1000)) [track 1 2 .feeding (some .d2x) (some 8000)] := by
  refine ⟨Or.inl rfl, rfl, ⟨⟨_, List.mem_singleton.2 rfl, by decide⟩, by decide +kernel, by decide +kernel⟩, rfl, by decide +kernel,
    by simp, ?_, rfl, rfl, by decide +kernel⟩
  intro z hz _ x hx
  obtain rfl : z = track 1 2 .feeding (some .d2x) (some 8000) := by simpa using hz
  obtain rfl : 8000 = x := by simpa [track] using hx
  decide

/-- At FUS, 120 past the expected position: a trim error of 120, and from −500 the trim at its limit; the diverter FREE
and BUSY. -/
theorem witness_on_time_lead_fus :
    let y := { track 1 1 .moving (some .fus) (some 505000) with trimStart := some 499000 }
    let s := leading .fus 505132 [] y []
    let limit := { s with counters := { s.counters with main := counter 2867 (-500) 0 } }
    let busy := { s with tracker := { s.tracker with diverter := .busy (sheetOf 9 1) } }
    leads .fus 505132 505000 [] y [] ∧ s.tracker.diverter = .free ∧ busy.tracker.diverter ≠ .free
      ∧ confirmedAt stations .fus 505132 = 505120 ∧ trimError stations .fus 505120 segments y = some 120
      ∧ (afterTrim .fus (some 120) s).counters.main.trim = -21 ∧ (afterTrim .fus (some 120) limit).counters.main.trim = -512
      ∧ hasCondition (afterTrim .fus (some 120) limit).report.latch .trimLimit = true := by
  simp only [leads, leadOnTime, moving, edgeReady, pointReached]
  and_intros <;> decide +kernel

/-- At DIV, decided and undecided, and against a BUSY or SET diverter; at OUT with the collator EMPTY, COLLECTING or PUSHING; at
PRG, DXE, INV and DXS. -/
theorem witness_on_time_lead_beyond :
    let y (st : Station) := track 1 1 .moving (some st) (some 700)
    let second := { track 1 2 .moving (some .out) (some 700) with dest := .out }
    let collecting : Collator := { Collator.reset with
      mode := .collecting, held := some { set := 1, attempt := 0 }, list := [{ tag := 9, sheet := sheetOf 1 1, last := false }] }
    (∀ st ∈ [Station.div, .out, .prg, .dxe, .inv, .dxs], leads st 700 700 [] (y st) [])
      ∧ (y .div).dest = .undecided ∧ running.tracker.diverter = .free
      ∧ leads .div 700 700 [] { y .div with dest := .dxe } [] ∧ Destination.dxe ≠ .undecided
      ∧ Diverter.set (sheetOf 9 1) ≠ .set (y .div).sheet
      ∧ running.collator.mode = .empty ∧ (y .out).sheet.seq = 1
      ∧ leads .out 700 700 [] second [] ∧ collecting.held = some { set := second.sheet.set, attempt := second.sheet.attempt }
      ∧ second.sheet.seq = collecting.list.length + 1 ∧ pushing.collator.mode ≠ .empty ∧ pushing.collator.mode ≠ .collecting := by
  simp only [leads, leadOnTime, moving, edgeReady, pointReached]
  and_intros <;> decide +kernel

/-- A trail 60 longer than the media entry's 5,588, its tolerance. -/
theorem witness_trail_at_out :
    let y := { track 1 1 .moving none none with
      last := true, trail := some { station := .out, deadline := 6000, lead := 0 }, dest := .out }
    let s := edgeDue .out false 5648 (withSets [setEntry 1 .sealed 1] (withTracks [y] running))
    s.path.state = .running ∧ pointReached (.debounce .out) s ∧ s.stations[stationId .out].edge = some ⟨false, 5648⟩
      ∧ s.stations[stationId .out].level = true ∧ s.tracker.table = [y]
      ∧ (bankEntries s.tables y.gen)[y.media] = some media
      ∧ (travelDiff (5648 + BitVec.ofInt 20 stations[stationId .out].latency) 0 - (media.length : Int)).natAbs ≤ media.tolerance
      ∧ s.collator = Collator.reset ∧ findSet 1 s.registry = some (setEntry 1 .sealed 1)
      ∧ (setEntry 1 .sealed 1).attempt = y.sheet.attempt := by
  simp only [pointReached]
  decide

/-- A sheet of set n with its trail pending at a station since a lead at 0. -/
def withTrail (set seq : Nat) (st : Station) : Track :=
  { track set seq .moving none none with trail := some { station := st, deadline := 6000, lead := 0 } }

/-- A trail of y at a station whose latency is 0, so many units after its lead. -/
def trails (st : Station) (length : Nat) (before : List Track) (y : Track) (after : List Track) : Prop :=
  trailMatched st (BitVec.ofNat 20 length) y { station := st, deadline := 6000, lead := 0 } before after stations
    (edgeDue st false (BitVec.ofNat 20 length) (withTracks (before ++ y :: after) (inPath .running .simplex .relaxed parked)))

/-- At XFR and DXE: 5,648 pu is within the tolerance of 60, 5,649 is not; the set able to be spoiled, and not. At DIV with two
sheets waiting, the second expected first. -/
theorem witness_trail_measured :
    let waits (seq : Nat) (x : Pos) := track 2 seq .moving (some .div) (some x)
    trails .xfr 5648 [] (withTrail 1 1 .xfr) [track 1 2 .staged none none] ∧ trails .dxe 5649 [] (withTrail 1 1 .dxe) []
      ∧ (travelDiff 5648 0 - (media.length : Int)).natAbs ≤ media.tolerance
      ∧ ¬(travelDiff 5649 0 - (media.length : Int)).natAbs ≤ media.tolerance ∧ (withTrail 1 1 .dxe).spoiled = none
      ∧ (∀ r ∈ [setEntry 1 .failed 1], ¬canSpoil r) ∧ reportRoom 1 (queued 63 running)
      ∧ trails .div 5588 [withTrail 3 1 .fus] (withTrail 1 1 .div) [waits 1 900, waits 2 800]
      ∧ (∀ o ∈ [withTrail 3 1 .fus, withTrail 1 1 .div, waits 1 900], o.sheet ≠ (waits 2 800).sheet)
      ∧ 0 < travelDiff (900 : Pos) 800 ∧ (waits 2 800).dest = .undecided := by
  simp only [trails, trailMatched, edgeReady, pointReached, reportRoom]
  and_intros <;> decide +kernel

/-- At PRG the last sheet of a SPOILED set, and one with others to come; at OUT the first sheet of two, the second and last, and
the last of a SPOILED set. -/
theorem witness_trail_exits :
    let spoiled := { withTrail 1 1 .prg with spoiled := some .length }
    let collecting : Collator := { Collator.reset with
      mode := .collecting, held := some { set := 1, attempt := 0 }, list := [{ tag := 9, sheet := sheetOf 1 1, last := false }] }
    trails .prg 9 [] spoiled [] ∧ trails .prg 9 [] spoiled [track 1 2 .moving (some .fus) (some 7)] ∧ spoiled.spoiled.isSome = true
      ∧ findSet 1 [setEntry 1 .spoiled 2] = some (setEntry 1 .spoiled 2) ∧ (setEntry 1 .spoiled 2).drained = false
      ∧ trails .out 5588 [] (withTrail 1 1 .out) [track 1 2 .moving (some .out) (some 9)] ∧ (withTrail 1 1 .out).last = false
      ∧ trails .out 5588 [] { withTrail 1 2 .out with last := true } []
      ∧ collecting.list.map (fun c => c.sheet) = (List.range collecting.list.length).map
          (fun i => { set := (withTrail 1 2 .out).sheet.set, attempt := (withTrail 1 2 .out).sheet.attempt, seq := i + 1 })
      ∧ (withTrail 1 2 .out).sheet.seq = collecting.list.length + 1 ∧ (setEntry 1 .sealed 2).attempt = (withTrail 1 2 .out).sheet.attempt
      ∧ collecting.held = some { set := (withTrail 1 2 .out).sheet.set, attempt := (withTrail 1 2 .out).sheet.attempt }
      ∧ ((setEntry 1 .spoiled 2).state = .spoiled) ∧ reportRoom 2 (queued 62 running) := by
  simp only [trails, trailMatched, edgeReady, pointReached, reportRoom]
  and_intros <;> decide +kernel

/-- A LENGTH spoil at XFR, DIV or OUT of set 1, in STRICT with set 2 younger: the collator COLLECTING set 1 keeps it while the
second sheet is bound for OUT, and dumps it where none is; the sheet judged at OUT is bound there itself. -/
theorem witness_length_spoil :
    let sets := [setEntry 1 .sealed 2, setEntry 2 .sealed 1]
    let collecting : Collator := { Collator.reset with mode := .collecting, held := some { set := 1, attempt := 0 } }
    let s (ts : List Track) := withSets sets (withTracks ts { running with collator := collecting })
    let y (st : Station) := withTrail 1 1 st
    let bound := { track 1 2 .moving (some .out) (some 9) with dest := .out }
    let spoils (ts : List Track) : Collator :=
      (afterSpoil .length (params .simplex .strict) [] (setEntry 1 .sealed 2) [setEntry 2 .sealed 1] (s ts)).collator
    (∀ st ∈ [Station.xfr, .div, .out], trails st 5649 [] (y st) [])
      ∧ spoilStands (params .simplex .strict) [] (setEntry 1 .sealed 2) [setEntry 2 .sealed 1] (s [y .xfr])
      ∧ (spoils [y .xfr]).mode = .dumping ∧ spoils [y .xfr, bound] = collecting
      ∧ spoils [{ y .out with dest := .out }] = collecting := by
  simp only [trails, trailMatched, edgeReady, pointReached, spoilStands]
  and_intros <;> decide +kernel

/-! ### Belt -/

/-- The mark at each edge of the tolerance, and beyond it; a HALTING path; the smallest seam offset and the one above. -/
theorem witness_seam :
    0 < belt.seamOffset ∧ { belt with seamOffset := 0 }.seamOffset = 0 ∧ belt.seamOffset ≤ 12000 ∧ belt.revolution ≤ 250000 ∧ belt.seamTolerance ≤ 511
      ∧ 20000 ≤ belt.revolution ∧ parked.sched.seam = none ∧ parked.path.state ≠ .running
      ∧ running.sched.seam = none ∧ moving running ∧ moving (inPath .halting .simplex .strict parked) ∧ (synced 41864).sched.seam = some 1040000
      ∧ (travelDiff 41864 (1040000 + BitVec.ofNat 20 belt.revolution)).natAbs ≤ belt.seamTolerance
      ∧ (travelDiff 41784 (1040000 + BitVec.ofNat 20 belt.revolution)).natAbs ≤ belt.seamTolerance
      ∧ belt.seamTolerance < (travelDiff 41865 (1040000 + BitVec.ofNat 20 belt.revolution)).natAbs
      ∧ (synced 41865).path.state ≠ .stopped ∧ reportRoom 3 (queued 61 (synced 41865))
      ∧ pointReached .seamWatch (due .seamWatch (synced 41864)) := by
  simp only [reportRoom, pointReached, moving]
  decide

/-- A pitch in DUPLEX with set 1's sheet at the shelf's head, settled or not, and an order of set 2 behind it. -/
def shelving (settled : Bool) : State :=
  due .pitch { inPath .running .duplex .strict (withTracks [track 1 1 .shelved none none] (synced 13024)) with
    shelf := [⟨sheetOf 1 1, settled⟩], orders := [order 2 1] }

theorem refeedable_shelving (settled : Bool) :
    refeedable (params .duplex .strict) (shelving settled) ↔ settled = true := by
  constructor
  · rintro ⟨-, -, h, hs, e, settles, -⟩
    cases e
    exact settles
  · rintro rfl
    exact ⟨rfl, rfl, ⟨sheetOf 1 1, true⟩, [], rfl, rfl, track 1 1 .shelved none none, by decide, rfl⟩

theorem not_refeedable_simplex (p : Policy) (s : State) : ¬refeedable (params .simplex p) s := fun h => by cases h.1

/-- Pitch 5 has a next boundary (k = 6) in the revolution; pitch 6 is the last. An order with its drawer dry, with a set gap
still to pass, with 48 reports queued, and with both; a shelf head kept back by the report queue. -/
theorem witness_blank_pitch :
    let s := due .pitch (synced 13024)
    pointReached .pitch s ∧ moving s ∧ s.sched.seam = some 1040000 ∧ s.tables.belt = some belt
      ∧ s.orders = [] ∧ s.shelf = [] ∧ 5 + 1 < belt.pitches ∧ belt.pitches ≤ 6 + 1
      ∧ pointReached .pitch committing ∧ committing.sched.seam = some 1040000 ∧ committing.orders = order 1 1 :: []
      ∧ (bankEntries committing.tables .bank0)[(3 : Fin 16)] = some media
      ∧ ¬refeedable (params .simplex .strict) committing ∧ feedable (params .simplex .strict) (order 1 1) committing
      ∧ ¬feedable (params .simplex .strict) (order 1 1) { committing with sched := { committing.sched with gap1 := 1 } }
      ∧ ¬feedable (params .simplex .strict) (order 1 1) (inPath .halting .simplex .strict committing)
      ∧ drawerEmpty full .d2 = false ∧ drawerEmpty { full with d2 := .high } media.drawer = true
      ∧ drawerEmpty { full with d2 := .open } media.drawer = true
      ∧ (queued 47 committing).report.queue.length < 48 ∧ ¬(queued 48 committing).report.queue.length < 48
      ∧ reportRoom 1 (queued 63 committing) ∧ pointReached .pitch (shelving true)
      ∧ refeedable (params .duplex .strict) (shelving true) := by
  simp only [pointReached, reportRoom, moving, feedable]
  and_intros <;> first
    | decide
    | exact not_refeedable_simplex .strict _
    | exact ((refeedable_shelving true).2 rfl).2.2

/-- SIMPLEX and RUNNING; DUPLEX with four reservations, the shelf's head unsettled; HALTING with a committed sheet of the set. -/
theorem witness_new_feed :
    let duplex := { shelving false with sched := { (shelving false).sched with reservation := 4 } }
    let halting := withSets [{ setEntry 1 .open 2 with committed := 1 }] (inPath .halting .simplex .strict committing)
    pointReached .pitch committing ∧ moving committing ∧ committing.sched.seam = some 1040000
      ∧ committing.tables.station = some stations ∧ committing.path.params = some (params .simplex .strict)
      ∧ committing.orders = [order 1 1] ∧ (bankEntries committing.tables .bank0)[(3 : Fin 16)] = some media
      ∧ ¬refeedable (params .simplex .strict) committing ∧ feedable (params .simplex .strict) (order 1 1) committing
      ∧ drawerEmpty full media.drawer = false ∧ (queued 47 committing).report.queue.length < 48
      ∧ duplex.path.params = some (params .duplex .strict) ∧ duplex.orders = [order 2 1]
      ∧ ¬refeedable (params .duplex .strict) (shelving false) ∧ feedable (params .duplex .strict) (order 2 1) duplex
      ∧ moving halting ∧ feedable (params .simplex .strict) (order 1 1) halting := by
  simp only [pointReached, moving, feedable]
  and_intros <;> first
    | decide
    | exact not_refeedable_simplex .strict _
    | exact fun h => absurd ((refeedable_shelving false).1 h) (by decide)

theorem witness_refeed :
    let s := due .pitch { inPath .running .duplex .strict (withTracks [track 1 1 .shelved none none] (synced 13024)) with
      shelf := [⟨sheetOf 1 1, true⟩] }
    pointReached .pitch s ∧ s.path.state = .running ∧ s.sched.seam = some 1040000
      ∧ s.path.params = some (params .duplex .strict) ∧ s.shelf = ⟨sheetOf 1 1, true⟩ :: []
      ∧ findTrack (sheetOf 1 1) s.tracker.table = some (track 1 1 .shelved none none) ∧ s.sched.gap2 = 0
      ∧ (queued 47 s).report.queue.length < 48 ∧ s.tables.station = some stations ∧ s.tables.belt = some belt := by
  simp only [pointReached]
  decide

/-- The feed start beside the seam watch point and a release point, as a run places them; and in STOPPED. -/
theorem witness_feed_start :
    let watch : Point := ⟨.belt, 41864, .seamWatch, false⟩
    let q : Point := ⟨.main, 4924, .feedStart (sheetOf 1 1), true⟩
    let release : Point := ⟨.belt, 27024, .release, false⟩
    let s := { withTracks [track 1 1 .feeding (some .d2x) none] (synced 13024) with points := [watch, q, release] }
    s.points = [watch] ++ q :: [release] ∧ q.event = .feedStart (sheetOf 1 1) ∧ q.reached = true
      ∧ (∀ r ∈ [watch], ¬(r.event = .feedStart (sheetOf 1 1) ∧ r.reached = true))
      ∧ findTrack (sheetOf 1 1) s.tracker.table = some (track 1 1 .feeding (some .d2x) none)
      ∧ moving s ∧ s.tables.station = some stations ∧ stopped.path.state = .stopped
      ∧ { stopped with points := s.points }.points = [watch] ++ q :: [release] := by
  simp only [moving]
  decide

/-- The head STAGED with its media, and a head still APPROACHING. -/
theorem witness_release :
    pointReached .release releasing ∧ releasing.path.state = .running
      ∧ findTrack (sheetOf 1 1) releasing.tracker.table = some (track 1 1 .staged none none)
      ∧ (bankEntries releasing.tables .bank0)[(3 : Fin 16)] = some media ∧ releasing.tables.belt = some belt
      ∧ findTrack (sheetOf 1 1) [track 1 1 .approaching (some .reg) (some 5)] = some (track 1 1 .approaching (some .reg) (some 5))
      ∧ (track 1 1 .approaching (some .reg) (some 5)).state ≠ .staged ∧ reportRoom 3 (queued 61 releasing)
      ∧ releasing.tables.station = some stations ∧ pointReached .release (due .release stopped)
      ∧ (due .release stopped).path.state = .stopped := by
  simp only [pointReached, reportRoom]
  decide

theorem witness_gate_and_settle :
    pointReached .gateClose (due .gateClose stopped) ∧ pointReached (.settle (sheetOf 1 1)) (due (.settle (sheetOf 1 1)) stopped) := by
  simp only [pointReached]
  decide

/-! ### Deadlines, stop lines and the collator -/

theorem witness_deadlines :
    let y := { track 1 1 .moving (some .div) (some 9) with trail := some { station := .fus, deadline := 25774, lead := 20000 } }
    findTrack (sheetOf 1 1) [y] = some y ∧ reportRoom 3 (queued 61 running)
      ∧ pointReached (.leadDeadline (sheetOf 1 1)) (due (.leadDeadline (sheetOf 1 1)) (withTracks [y] running))
      ∧ pointReached (.trailDeadline (sheetOf 1 1)) (due (.trailDeadline (sheetOf 1 1)) (withTracks [y] stopped))
      ∧ running.path.state = .running ∧ y.next = some .div ∧ y.trail.isSome = true ∧ stopped.path.state = .stopped := by
  simp only [pointReached, reportRoom]
  decide

theorem witness_stop_lines :
    running.path.stopPanel = false ∧ (got (.stopLineAsserted .panel) running).path.stopPanel = true
      ∧ reportRoom 3 (queued 61 running) ∧ running.path.state = .running ∧ parked.path.state ≠ .running
      ∧ parked.path.state ≠ .halting := by
  simp only [reportRoom]
  decide

/-- Set 5 spoiled while the collator dumps it, in RELAXED. -/
def dumping : State :=
  withSets [setEntry 5 .spoiled 2] { inPath .running .simplex .relaxed parked with
    collator := { pushing.collator with mode := .dumping, push := false, dump := true } }

/-- A push in RUNNING and in HALTING, there with nothing left in the path and with a sheet still in it; in STRICT with the set
spoiled while pushed and a drained set held behind it. A dump whose set still has a sheet in the path, and one whose set is
resolved: RELAXED; STRICT, first, held behind an older SPOILED set, and failing behind it. -/
theorem witness_done :
    let held := { setEntry 6 .spoiled 1 with drained := true }
    let halting := inPath .halting .simplex .strict pushing
    let after := { withSets [] halting with collator := Collator.reset }
    running.collator.mode = .empty ∧ pushing.path.state ≠ .halting ∧ halting.path.state = .halting ∧ haltable after
      ∧ ¬haltable (withTracks [track 9 1 .staged none none] after) ∧ pushing.collator.mode = .pushing
      ∧ pushing.collator.held = some { set := 5, attempt := 0 } ∧ pushing.path.params = some (params .simplex .strict)
      ∧ pushing.registry = [] ++ { setEntry 5 .delivering 2 with collected := 2 } :: []
      ∧ (([setEntry 4 .sealed 1, setEntry 5 .spoiled 2, held].map (fun x => x.set)).Nodup)
      ∧ walkedSets [held] = [held] ∧ reportRoom (2 * 1 + 6) (queued 56 pushing)
      ∧ (∀ o ∈ [setEntry 4 .sealed 1], o.state ≠ .spoiled) ∧ ¬(∀ o ∈ [setEntry 4 .spoiled 1], o.state ≠ .spoiled)
      ∧ dumping.path.state ≠ .halting ∧ dumping.collator.held = some { set := 5, attempt := 0 }
      ∧ dumping.collator.mode = .dumping ∧ dumping.registry = [] ++ setEntry 5 .spoiled 2 :: []
      ∧ (setEntry 5 .spoiled 2).drained = false ∧ (setEntry 5 .spoiled 2).failing = false
      ∧ { setEntry 5 .spoiled 2 with failing := true }.failing = true ∧ held.failing = false
      ∧ dumping.path.params = some (params .simplex .relaxed)
      ∧ (∃ y ∈ (withTracks [track 5 2 .moving none none] dumping).tracker.table, y.sheet.set = 5)
      ∧ (∀ y ∈ dumping.tracker.table, y.sheet.set ≠ 5) ∧ ∀ y ∈ dumping.shelf, y.sheet.set ≠ 5 := by
  simp only [reportRoom, haltable]
  decide +kernel

theorem witness_collator_faults :
    reportRoom 3 (queued 61 pushing) ∧ (got .collatorFaultLine pushing).collator.mode = .faulted
      ∧ pushing.collator.mode ≠ .faulted ∧ pushing.path.state ≠ .stopped
      ∧ { stopped with collator := pushing.collator }.path.state = .stopped
      ∧ running.collator.mode ≠ .pushing ∧ running.collator.mode ≠ .dumping
      ∧ pushing.collator.timer = some { elapsed := 400, timeout := 1000 }
      ∧ expiring.collator.timer = some { elapsed := 999, timeout := 1000 } ∧ expiring.pending = []
      ∧ expiring.path.silence + (1000 - 999) ≤ 200 := by
  simp only [reportRoom]
  decide

end Sys2Proof.Tests
end

/-! # Travel counting: what changes a segment's position, fraction and trim (R4, R17)

First the operations that leave the Travel Counters as they are, in the order of the model's files; then the few that
set a scale or a trim and keep every position and fraction; then the two statements. -/

namespace Sys2Proof.Machine

/-! ## Operations that leave the counters as they are -/

section Counters

variable (s : State)

theorem SetFrame.counters {s t : State} (h : SetFrame s t) : t.counters = s.counters := by rw [h.1]

theorem CommitFrame.counters {s t : State} (h : CommitFrame s t) : t.counters = s.counters := by rw [h.1]

theorem TrailFrame.counters {s t : State} (h : TrailFrame s t) : t.counters = s.counters := by rw [h.1]

/-- A walk over a list leaves the counters where each of its steps does. -/
theorem foldl_counters {α : Type} {f : State → α → State} (hf : ∀ s x, (f s x).counters = s.counters) (l : List α)
    (s : State) : (l.foldl f s).counters = s.counters := by
  induction l generalizing s with
  | nil => rfl
  | cons x l ih => exact (ih _).trans (hf s x)

/-! ### Reports, stops, the halt test and time -/

@[simp] theorem refuse_counters (tag : Option Tag) (kind : Option RecordKind) (c : RefusalCode) :
    (refuse tag kind c s).counters = s.counters := rfl

@[simp] theorem raiseFault_counters (r : StopRecord) : (raiseFault r s).counters = s.counters := by
  obtain ⟨k, p, t, x, u, h⟩ := raiseFault_frame r s
  rw [h]

@[simp] theorem jam_counters (cause : StopCause) (st : Station) (named : Option NamedSheet) (d : Option Int) :
    (jam cause st named d s).counters = s.counters := by simp [jam]

@[simp] theorem beltSlip_counters (d : Option Int) : (beltSlip d s).counters = s.counters := by simp [beltSlip]

@[simp] theorem refault_counters : (refault s).counters = s.counters := by simp [refault]

@[simp] theorem collatorFault_counters : (collatorFault s).counters = s.counters := by
  unfold collatorFault
  split
  · rfl
  · simp

@[simp] theorem enterStopped_counters (r : StopRecord) : (enterStopped r s).counters = s.counters := by simp [enterStopped]

@[simp] theorem lineAsserted_counters (l : StopLine) : (lineAsserted l s).counters = s.counters := by
  unfold lineAsserted
  dsimp only
  split <;> simp

@[simp] theorem haltTest_counters : (haltTest s).counters = s.counters := by
  unfold haltTest
  split <;> rfl

@[simp] theorem withHaltTest_counters (f : State → State) : (withHaltTest f s).counters = (f s).counters := by
  rcases withHaltTest_cases f s with h | ⟨-, -, h⟩ <;> rw [h]
  rfl

@[simp] theorem timerExpires_counters : (timerExpires s).counters = s.counters := by
  unfold timerExpires
  split <;> simp

@[simp] theorem passTime_counters (d : Nat) : (passTime d s).counters = s.counters := by
  unfold passTime
  split
  · simp
  · split <;> simp

/-! ### The belt, image faults and deadlines -/

@[simp] theorem pitchEvent_counters : (pitchEvent s).counters = s.counters := (commitFrame_pitchEvent s).1.counters

@[simp] theorem takeSeam_counters (mark : Pos) : (takeSeam mark s).counters = s.counters := by simp [takeSeam]

@[simp] theorem seamMark_counters : (seamMark s).counters = s.counters := by
  unfold seamMark
  dsimp only
  split <;> split <;> simp

@[simp] theorem expectLead_counters (id : SheetId) (st : Station) (x : Pos) :
    (expectLead id st x s).counters = s.counters := rfl

@[simp] theorem feedStartReached_counters (id : SheetId) (q : Point) : (feedStartReached id q s).counters = s.counters := by
  unfold feedStartReached
  split
  · split <;> rfl
  · rfl

@[simp] theorem leaveRing_counters : (leaveRing s).counters = s.counters := by
  obtain ⟨ps, h⟩ := placeRelease_frame { s with sched := { s.sched with ring := s.sched.ring.drop 1 } }
  unfold leaveRing
  rw [h]

@[simp] theorem openGate_counters (e : Track) : (openGate e s).counters = s.counters := by simp [openGate]

@[simp] theorem releaseHead_counters : (releaseHead s).counters = s.counters := by
  unfold releaseHead
  split
  · rfl
  · split <;> simp

@[simp] theorem imageFault_counters (pitch : Byte) (handle : Handle) :
    (imageFault pitch handle s).counters = s.counters := by
  unfold imageFault
  split
  · rfl
  · exact (setFrame_spoilSet _ _ _).counters

@[simp] theorem imagerBytes_counters (bytes : List Byte) : (imagerBytes bytes s).counters = s.counters := by
  unfold imagerBytes
  dsimp only
  exact foldl_counters (fun _ _ => imageFault_counters _ _ _) _ _

@[simp] theorem leadOverdue_counters (id : SheetId) : (leadOverdue id s).counters = s.counters := by
  unfold leadOverdue
  split
  · split
    · rfl
    · split <;> simp
  · rfl

@[simp] theorem trailOverdue_counters (id : SheetId) : (trailOverdue id s).counters = s.counters := by
  unfold trailOverdue
  split
  · split
    · rfl
    · split <;> simp
  · rfl

@[simp] theorem collatorDone_counters : (collatorDone s).counters = s.counters := by
  unfold collatorDone
  dsimp only
  split
  · unfold delivered
    split
    · rfl
    · dsimp only
      split
      · exact (setFrame_heldWalk _ _).counters
      · rfl
  · exact (setFrame_drainCheck _ _).counters
  all_goals rfl

/-! ### The records but SET TRIM and LOAD COMMIT -/

@[simp] theorem dropLoad_counters : (dropLoad s).counters = s.counters := by
  unfold dropLoad
  split
  · rfl
  · dsimp only
    split <;> rfl

@[simp] theorem interrupt_counters (tag : Tag) : (interrupt tag s).counters = s.counters := by
  unfold interrupt
  split
  · rfl
  · exact dropLoad_counters s

@[simp] theorem acceptSheet_counters (r : SheetRecord) (how : SheetPass) :
    (acceptSheet r how s).counters = s.counters := by
  unfold acceptSheet
  dsimp only
  split <;> cases how <;> rfl

@[simp] theorem refuseSheet_counters (r : SheetRecord) (c : RefusalCode) : (refuseSheet r c s).counters = s.counters := by
  unfold refuseSheet
  dsimp only
  split
  · exact (setFrame_spoilSet _ _ _).counters
  · rfl

@[simp] theorem settleSheet_counters (r : SheetRecord) (o : SheetOutcome) : (settleSheet r o s).counters = s.counters := by
  cases o <;> simp [settleSheet]

@[simp] theorem takeSheet_counters (tag : Tag) (body : List Byte) : (takeSheet tag body s).counters = s.counters := by
  unfold takeSheet
  split
  · rfl
  · split
    · dsimp only
      split
      · rfl
      · exact settleSheet_counters _ _ _
    · rfl

@[simp] theorem retrySheet_counters : (retrySheet s).counters = s.counters := by
  unfold retrySheet
  split
  · rfl
  · split <;> simp

@[simp] theorem takeStartRun_counters (tag : Tag) (body : List Byte) : (takeStartRun tag body s).counters = s.counters := by
  unfold takeStartRun
  dsimp only
  split
  · rfl
  · split
    · rfl
    · repeat' split
      all_goals rfl

@[simp] theorem takeHalt_counters (tag : Tag) : (takeHalt tag s).counters = s.counters := by
  unfold takeHalt
  split <;> simp

@[simp] theorem takeResume_counters (tag : Tag) : (takeResume tag s).counters = s.counters := by
  unfold takeResume
  dsimp only
  split
  · rfl
  · rfl
  · repeat' split
    all_goals rfl
  all_goals rfl

@[simp] theorem withdrawAll_counters : (withdrawAll s).counters = s.counters :=
  foldl_counters (fun s e => by unfold withdrawReport; split <;> rfl) _ _

@[simp] theorem takeEndRun_counters (tag : Tag) : (takeEndRun tag s).counters = s.counters := by
  unfold takeEndRun
  dsimp only
  split
  · split
    · rfl
    · simp
  all_goals rfl

@[simp] theorem recover_counters : (recover s).counters = s.counters := by
  have hc : ∀ t, (collatorRecover t).counters = t.counters := fun t => by rw [collatorRecover_frame]
  simp [recover, (setFrame_strandSets _ _ _).counters, hc, flushScheduler_eq, flushSheets_eq]

@[simp] theorem takePathCleared_counters (tag : Tag) : (takePathCleared tag s).counters = s.counters := by
  unfold takePathCleared
  dsimp only
  repeat' split
  all_goals simp

@[simp] theorem resetRun_counters : (resetRun s).counters = s.counters := by
  simp [resetRun, flushScheduler_eq, flushSheets_eq]

@[simp] theorem takeRunReset_counters : (takeRunReset s).counters = s.counters := by
  unfold takeRunReset
  dsimp only
  split <;> simp

@[simp] theorem takeClear_counters (tag : Tag) (body : List Byte) : (takeClear tag body s).counters = s.counters := by
  unfold takeClear
  split <;> rfl

@[simp] theorem takeSetMask_counters (tag : Tag) (body : List Byte) : (takeSetMask tag body s).counters = s.counters := by
  unfold takeSetMask
  split <;> rfl

@[simp] theorem takeLock_counters (tag : Tag) (body : List Byte) : (takeLock tag body s).counters = s.counters := by
  unfold takeLock
  dsimp only
  split
  · rfl
  · split
    · rfl
    · split <;> rfl

@[simp] theorem openLoad_counters (t : TableName) (n : Nat) : (openLoad t n s).counters = s.counters := by
  cases t <;> rfl

@[simp] theorem takeLoadBegin_counters (tag : Tag) (body : List Byte) :
    (takeLoadBegin tag body s).counters = s.counters := by
  unfold takeLoadBegin
  dsimp only
  split
  · simp
  · split
    · rfl
    · repeat' split
      all_goals simp

@[simp] theorem writeEntry_counters (body : List Byte) (l : Load) : (writeEntry body l s).counters = s.counters := by
  unfold writeEntry
  dsimp only
  split
  · unfold mediaLoadEntry
    dsimp only
    repeat' split
    all_goals rfl
  · unfold stationLoadEntry
    dsimp only
    repeat' split
    all_goals rfl
  · unfold segmentLoadEntry
    repeat' split
    all_goals rfl
  · unfold beltLoadEntry
    repeat' split
    all_goals rfl

@[simp] theorem takeLoadEntry_counters (tag : Tag) (body : List Byte) :
    (takeLoadEntry tag body s).counters = s.counters := by
  unfold takeLoadEntry
  split
  · rfl
  · split <;> simp

@[simp] theorem takeLoadAbort_counters (tag : Tag) : (takeLoadAbort tag s).counters = s.counters := by
  unfold takeLoadAbort
  split <;> simp

@[simp] theorem badFrame_counters : (badFrame s).counters = s.counters := by
  unfold badFrame
  split
  · rfl
  · split
    · rfl
    · split <;> rfl

@[simp] theorem transmit_counters : (transmit s).counters = s.counters := by
  unfold transmit
  split <;> rfl

/-! ### Judging a lead, but for its trim sample -/

@[simp] theorem expectNothing_counters (id : SheetId) : (expectNothing id s).counters = s.counters := rfl

@[simp] theorem pendTrail_counters (e : Track) (st : Station) (q : Pos) : (pendTrail e st q s).counters = s.counters := by
  unfold pendTrail
  split <;> simp

@[simp] theorem releaseClutch_counters (src : Source) : (releaseClutch src s).counters = s.counters := by
  unfold releaseClutch
  split <;> rfl

@[simp] theorem decideDestination_counters (e : Track) : (decideDestination e s).counters = s.counters := rfl

@[simp] theorem decideAtFuser_counters (e : Track) : (decideAtFuser e s).counters = s.counters := by
  unfold decideAtFuser
  split <;> simp

@[simp] theorem afterDiverter_counters (id : SheetId) (d : Destination) (q : Pos) :
    (afterDiverter id d q s).counters = s.counters := by
  cases d <;> rfl

@[simp] theorem arriveDiverter_counters (e : Track) (q : Pos) (d : Int) :
    (arriveDiverter e q d s).counters = s.counters := by
  unfold arriveDiverter
  split
  · split <;> simp
  · split <;> simp
  · simp

@[simp] theorem stage_counters (e : Track) (d : Int) : (stage e d s).counters = s.counters := by
  unfold stage
  split <;> simp [setSheetState]

@[simp] theorem collatorLead_counters (e : Track) (d : Int) : (collatorLead e d s).counters = s.counters := by
  unfold collatorLead
  split <;> simp

/-- The route and a station's action move no counter (R91). -/
@[simp] theorem routeOn_counters (e : Track) (st : Station) (q : Pos) (d : Int) :
    (routeOn e st q d s).counters = s.counters := by
  cases st <;> simp [routeOn, setSheetState, joinShelf]

end Counters

/-! ## Operations that keep every position and fraction -/

/-- Between two states no segment's position or fraction has changed (R4). -/
def TravelKept (s t : State) : Prop :=
  ∀ g, (counterOf t.counters g).position = (counterOf s.counters g).position
    ∧ (counterOf t.counters g).fraction = (counterOf s.counters g).fraction

theorem TravelKept.of_counters {s t : State} (h : t.counters = s.counters) : TravelKept s t := fun _ => by simp [h]

theorem TravelKept.refl (s : State) : TravelKept s s := .of_counters rfl

theorem TravelKept.trans {a b c : State} (h : TravelKept a b) (h' : TravelKept b c) : TravelKept a c := fun g =>
  ⟨(h' g).1.trans (h g).1, (h' g).2.trans (h g).2⟩

/-- What follows an operation and leaves the counters as it left them does not matter. -/
theorem TravelKept.congr {s t u : State} (h : TravelKept s t) (hu : u.counters = t.counters) : TravelKept s u :=
  h.trans (.of_counters hu)

/-- One segment's counter is replaced by another at the same position and fraction. -/
theorem TravelKept.of_setCounter {s t : State} {g : Segment} {k : Counter} (h : t.counters = setCounter g k s.counters)
    (hp : k.position = (counterOf s.counters g).position) (hf : k.fraction = (counterOf s.counters g).fraction) :
    TravelKept s t := by
  intro g'
  rw [h]
  by_cases hg : g' = g
  · subst hg
    rw [counterOf_set]
    exact ⟨hp, hf⟩
  · rw [counterOf_set_ne hg]
    exact ⟨rfl, rfl⟩

/-! ### What wraps an operation -/

section Wrappers

variable {f : State → State} {s : State}

theorem travelKept_withRetry (h : TravelKept s (f s)) : TravelKept s (withRetry f s) :=
  h.congr (withRetry_counters _ _)

theorem travelKept_withHaltTest (h : TravelKept s (f s)) : TravelKept s (withHaltTest f s) :=
  h.congr (withHaltTest_counters _ _)

/-- A delivery keeps travel where the owner's act does. -/
theorem travelKept_deliver {e : PointEvent} {act : Point → State → State} (h : ∀ q t, TravelKept t (act q t))
    (s : State) : TravelKept s (deliver e act s) := by
  rcases deliver_cases e act s with he | ⟨q, -, -, -, he⟩ <;> rw [he]
  · exact .refl s
  · exact (h q (dropPoint e s)).congr (withPassages_counters _ _)

/-- A record command keeps travel where the record's own effect does. -/
theorem travelKept_intake {kind : Byte} {tag : Tag} {body : List Byte} {take : State → State}
    (h : ∀ t, TravelKept t (take t)) (s : State) : TravelKept s (intake kind tag body take s) := by
  rcases intake_cases kind tag body take s with ⟨-, he⟩ | ⟨-, f, rest, -, -, he⟩ | he <;> rw [he]
  · exact h s
  · exact (h (withReceiver { s.intake.rx with frames := rest } s)).congr (nextTurn_counters _)
  · exact .of_counters (arrive_counters _ _)

theorem travelKept_plainRecord {kind : RecordKind} {tag : Tag} {body : List Byte} {act : State → State}
    (h : ∀ t, TravelKept t (act t)) (s : State) : TravelKept s (plainRecord kind tag body act s) :=
  travelKept_intake (fun t => .trans (.of_counters (interrupt_counters t tag)) (h _)) s

theorem travelKept_bodilessRecord {kind : RecordKind} {tag : Tag} {body : List Byte} {act : State → State}
    (h : ∀ t, TravelKept t (act t)) (s : State) : TravelKept s (bodilessRecord kind tag body act s) := by
  refine travelKept_intake (fun t => ?_) s
  split
  · exact h t
  · exact .of_counters (by simp)

end Wrappers

/-! ### Trims and scales -/

/-- A trim sample moves a trim alone (R19). -/
theorem travelKept_trimSample (g : Segment) (qa qb : Pos) (s : State) : TravelKept s (trimSample g qa qb s) := by
  unfold trimSample
  dsimp only
  split
  · split
    · exact .refl s
    · split <;> exact .of_setCounter rfl rfl rfl
  · exact .refl s

theorem travelKept_trimAtLead (e : Track) (st : Station) (q : Pos) (s : State) : TravelKept s (trimAtLead e st q s) := by
  unfold trimAtLead
  dsimp only
  split
  · exact .of_counters rfl
  · split
    · split
      · exact .refl s
      · split
        · exact travelKept_trimSample _ _ _ (updateTrack _ _ s)
        · exact .of_counters rfl
    · exact .refl s

theorem travelKept_advance (e : Track) (st : Station) (q : Pos) (d : Int) (s : State) :
    TravelKept s (advance e st q d s) :=
  (travelKept_trimAtLead e st q (updateTrack e.sheet (fun e => { e with lastPassed := some st }) s)).congr
    (by simp [advance])

theorem travelKept_leadEdge (st : Station) (q : Pos) (s : State) : TravelKept s (leadEdge st q s) := by
  unfold leadEdge
  split
  · split
    · exact .of_counters (by simp)
    · dsimp only
      split
      · exact .of_counters (by simp)
      · split
        · exact .of_counters (by simp)
        · exact travelKept_advance _ _ _ _ (dropPoint _ s)
  · exact .refl s

theorem travelKept_confirmEdge (st : Station) (edge : PendingEdge) (s : State) : TravelKept s (confirmEdge st edge s) := by
  unfold confirmEdge
  dsimp only
  split
  · exact travelKept_leadEdge _ _ { s with stations := _ }
  · split
    · exact .of_counters (trailFrame_trailEdge _ _ { s with stations := _ }).counters
    · exact .of_counters rfl

theorem travelKept_lineChange (st : Station) (s : State) : TravelKept s (lineChange st s) := by
  unfold lineChange
  dsimp only
  split
  · exact .of_counters rfl
  · split
    · exact .of_counters rfl
    · unfold openEdge
      dsimp only
      split
      · exact travelKept_confirmEdge _ _ (setStation _ _ s)
      · exact .of_counters rfl

theorem travelKept_debounceReached (st : Station) (s : State) : TravelKept s (debounceReached st s) := by
  unfold debounceReached
  split
  · exact .refl s
  · exact travelKept_confirmEdge _ _ s

theorem travelKept_takeSetTrim (tag : Tag) (body : List Byte) (s : State) : TravelKept s (takeSetTrim tag body s) := by
  unfold takeSetTrim
  dsimp only
  split
  · exact .of_counters rfl
  · split
    · exact .of_counters rfl
    · split
      · exact .of_counters rfl
      · exact .of_setCounter rfl rfl rfl

/-! ### LOAD COMMIT -/

@[simp] theorem discardLoad_counters (r : DiscardReason) (t : TableName) (tag : Tag) (s : State) :
    (discardLoad r t tag s).counters = s.counters := by simp [discardLoad]

/-- All that committing a buffer can do to the counters: nothing, a segment load's scales and trims, or a belt load's scale
(R6, R17). -/
theorem commitBuffer_counters_cases (tag : Tag) (l : Load) (s : State) :
    (commitBuffer tag l s).counters = s.counters
      ∨ (∃ m d, l.buffer = .segment (some m) (some d) ∧ (commitBuffer tag l s).counters = { s.counters with
          main := rescale m l.wroteMain s.counters.main, duplex := rescale d l.wroteDuplex s.counters.duplex })
      ∨ ∃ b, l.buffer = .belt (some b) ∧ (commitBuffer tag l s).counters = { s.counters with
          belt := { s.counters.belt with nominal := some b.scale } } := by
  unfold commitBuffer
  split
  · split <;> exact .inl (by simp [committedReport, commitMedia])
  · split
    · exact .inl (by simp)
    · split <;> exact .inl (by simp [committedReport, commitStation])
  · rename_i m d hb
    split
    · exact .inr (.inl ⟨m, d, hb, rfl⟩)
    · exact .inl (by simp)
  · exact .inl (by simp)
  · exact .inl (by simp)
  · rename_i b hb
    split
    · exact .inr (.inr ⟨b, hb, rfl⟩)
    · exact .inl (by simp)

/-- The same of a LOAD COMMIT record, of the buffer of the load it finds open. -/
theorem takeLoadCommit_counters_cases (tag : Tag) (s : State) :
    (takeLoadCommit tag s).counters = s.counters
      ∨ ∃ l, s.intake.load = some l ∧ (takeLoadCommit tag s).counters = (commitBuffer tag l s).counters := by
  unfold takeLoadCommit
  split
  · exact .inl rfl
  · rename_i l hl
    split
    · unfold commitLoad
      split
      · exact .inl (by simp)
      · exact .inl (by simp)
      · split
        · exact .inl (by simp)
        · exact .inr ⟨l, hl, rfl⟩
    · exact .inl (by simp)

theorem travelKept_commitBuffer (tag : Tag) (l : Load) (s : State) : TravelKept s (commitBuffer tag l s) := by
  rcases commitBuffer_counters_cases tag l s with h | ⟨m, d, -, h⟩ | ⟨b, -, h⟩
  · exact .of_counters h
  all_goals
    intro g
    rw [h]
    cases g <;> exact ⟨rfl, rfl⟩

theorem travelKept_takeLoadCommit (tag : Tag) (s : State) : TravelKept s (takeLoadCommit tag s) := by
  rcases takeLoadCommit_counters_cases tag s with h | ⟨l, -, h⟩
  · exact .of_counters h
  · exact (travelKept_commitBuffer tag l s).congr h

/-! ## Every command but power-on reset and a forward count -/

/-- The state an outcome answers keeps every position and fraction. -/
def KeepsTravel (s : State) (o : Host.Outcome State Fault Refusal) : Prop := ∀ t, o = .next t → TravelKept s t

theorem keepsTravel_next {s t : State} (h : TravelKept s t) : KeepsTravel s (.next t) := by
  rintro _ ⟨⟩
  exact h

/-- A command whose next state has the counters as they were. -/
theorem keepsTravel_of_counters {s t : State} (h : t.counters = s.counters) : KeepsTravel s (.next t) :=
  keepsTravel_next (.of_counters h)

/-- A record whose own effect leaves the counters. -/
theorem keepsTravel_plainRecord {kind : RecordKind} {tag : Tag} {body : List Byte} {act : State → State}
    (h : ∀ t, (act t).counters = t.counters) (s : State) : KeepsTravel s (.next (plainRecord kind tag body act s)) :=
  keepsTravel_next (travelKept_plainRecord (fun t => .of_counters (h t)) s)

/-- A bodiless record whose own effect leaves the counters. -/
theorem keepsTravel_bodilessRecord {kind : RecordKind} {tag : Tag} {body : List Byte} {act : State → State}
    (h : ∀ t, (act t).counters = t.counters) (s : State) : KeepsTravel s (.next (bodilessRecord kind tag body act s)) :=
  keepsTravel_next (travelKept_bodilessRecord (fun t => .of_counters (h t)) s)

/-- A forward count moves its own segment's counter alone. -/
theorem countForward_counters (g : Segment) (k : Counter) (s : State) :
    ∃ k', (countForward g k s).counters = setCounter g k' s.counters := by
  unfold countForward
  split
  · exact ⟨_, rfl⟩
  · split <;> exact ⟨_, rfl⟩

theorem execForwardCount_other {count : ForwardCount} {g : Segment} {s t : State} (hg : g ≠ count.segment)
    (h : execForwardCount count s = .next t) : counterOf t.counters g = counterOf s.counters g := by
  cases h
  obtain ⟨k, hk⟩ := countForward_counters count.segment (stepForward (counterOf s.counters count.segment))
    (encoderActivity (readDrawers count.drawers
      { s with pending := s.pending.drop (linesAhead count.lines s.pending).length }))
  rw [withPassagesAmong_counters, hk, counterOf_set_ne hg]
  rfl

/-- No command but power-on reset and a forward count moves a position or a fraction (R4). -/
theorem keepsTravel_exec (c : Instr) (s : State) (hp : isPowerOn c = false) (hf : ∀ k, c ≠ .forwardCount k) :
    KeepsTravel s (exec c s) := by
  cases c with
  | powerOnReset => cases hp
  | forwardCount k => exact absurd rfl (hf k)
  | sheet tag body =>
    exact keepsTravel_next (travelKept_withRetry (travelKept_withHaltTest
      (travelKept_plainRecord (fun _ => .of_counters (by simp)) s)))
  | heldSheetRetry => exact keepsTravel_of_counters (by simp)
  | startRun tag body w r => exact keepsTravel_plainRecord (by simp) (readShelfAndReady w r s)
  | halt tag body => exact keepsTravel_bodilessRecord (by simp) s
  | resume tag body r => exact keepsTravel_bodilessRecord (by simp) (readReady r s)
  | endRun tag body => exact keepsTravel_bodilessRecord (by simp) s
  | pathCleared tag body w r => exact keepsTravel_bodilessRecord (by simp) (readShelfAndReady w r s)
  | runReset tag body w => exact keepsTravel_bodilessRecord (by simp) (readShelf w s)
  | query tag body => exact keepsTravel_bodilessRecord (by simp [takeQuery]) s
  | clearConditions tag body => exact keepsTravel_plainRecord (by simp) s
  | setMask tag body => exact keepsTravel_plainRecord (by simp) s
  | lock tag body => exact keepsTravel_plainRecord (by simp) s
  | unlock tag rest => exact keepsTravel_plainRecord (by simp) s
  | lockDown tag rest => exact keepsTravel_plainRecord (by simp) s
  | setTrim tag body => exact keepsTravel_next (travelKept_plainRecord (travelKept_takeSetTrim tag body) s)
  | loadBegin tag body => exact keepsTravel_next (travelKept_intake (fun _ => .of_counters (by simp)) s)
  | loadEntry tag body => exact keepsTravel_next (travelKept_intake (fun _ => .of_counters (by simp)) s)
  | loadCommit tag body => exact keepsTravel_next (travelKept_bodilessRecord (travelKept_takeLoadCommit tag) s)
  | loadAbort tag body => exact keepsTravel_bodilessRecord (by simp) s
  | unknownKindRecord kind tag body =>
    refine keepsTravel_next ?_
    split
    · exact .refl s
    · exact travelKept_intake (fun _ => .of_counters (by simp)) s
  | badFrame => exact keepsTravel_of_counters (by simp)
  | interByteGap => exact keepsTravel_of_counters (by simp)
  | reportTransmit r => exact keepsTravel_of_counters (by simp)
  | imageFault pitch handle => exact keepsTravel_of_counters (by simp)
  | imagerFrameDiscard frame => exact keepsTravel_of_counters (by simp)
  | reverseCount g => exact keepsTravel_next (.of_setCounter rfl rfl rfl)
  | phaseError g => exact keepsTravel_next (.of_setCounter rfl rfl rfl)
  | sensorChange st =>
    exact keepsTravel_next (travelKept_withRetry (travelKept_withHaltTest
      ((travelKept_lineChange st s).congr (withPassages_counters _ _))))
  | debouncePointReached st =>
    exact keepsTravel_next (travelKept_withRetry (travelKept_withHaltTest
      (travelKept_deliver (fun _ => travelKept_debounceReached st) s)))
  | seamMark l => exact keepsTravel_of_counters (by simp)
  | seamWatchPoint =>
    exact keepsTravel_next (travelKept_withRetry (travelKept_deliver (fun _ _ => .of_counters (by split <;> simp)) s))
  | pitchCommitEvent l => exact keepsTravel_of_counters (by simp)
  | feedStart id => exact keepsTravel_next (travelKept_deliver (fun _ _ => .of_counters (by simp)) s)
  | release =>
    exact keepsTravel_next (travelKept_withRetry (travelKept_withHaltTest
      (travelKept_deliver (fun _ _ => .of_counters (by split <;> simp)) s)))
  | gateClosePoint => exact keepsTravel_next (travelKept_deliver (fun _ _ => .of_counters (by simp)) s)
  | leadDeadline id =>
    exact keepsTravel_next (travelKept_withRetry (travelKept_deliver (fun _ _ => .of_counters (by simp)) s))
  | trailDeadline id =>
    exact keepsTravel_next (travelKept_withRetry (travelKept_deliver (fun _ _ => .of_counters (by simp)) s))
  | settlePoint id => exact keepsTravel_next (travelKept_deliver (fun _ _ => .of_counters (by simp [settleEntry])) s)
  | stopLineAsserted l =>
    refine keepsTravel_of_counters ?_
    split <;> simp
  | stopLineReleased l => exact keepsTravel_of_counters rfl
  | collatorDone => exact keepsTravel_of_counters (by simp)
  | collatorFaultLine => exact keepsTravel_of_counters (by simp)
  | collatorTimerExpiry => exact keepsTravel_of_counters (by simp)
  | atRest => exact keepsTravel_of_counters (by simp)
  | orderLinkByte b => exact keepsTravel_of_counters (by simp)

/-- Settles O44: the reverse count by its own equation, and the frame of positions over all commands. -/
theorem reverseCountOnlyRaisesDebt : Obligations.ReverseCountOnlyRaisesDebt := by
  unfold Obligations.ReverseCountOnlyRaisesDebt
  refine ⟨fun s g => ⟨_, rfl, ?_, fun h hne => counterOf_set_ne hne _ _, rfl⟩, fun c s t g hp hf h => ?_⟩
  · dsimp only
    rw [counterOf_set]
    exact ⟨rfl, rfl, rfl, rfl, rfl⟩
  · by_cases hc : ∃ k, c = .forwardCount k
    · obtain ⟨k, rfl⟩ := hc
      have hne : g ≠ k.segment := fun hg => hf k.drawers k.lines (by rw [hg])
      rw [execForwardCount_other hne h]
      exact ⟨rfl, rfl⟩
    · exact keepsTravel_exec c s hp (fun k hk => hc ⟨k, hk⟩) t h g

/-! ## Segment loads (R17) -/

/-- On an idle link LOAD COMMIT and LOAD ENTRY are taken at once. -/
theorem exec_loadCommit_idle {s : State} (h : linkIdle s) (tag : Tag) :
    exec (.loadCommit tag []) s = .next (takeLoadCommit tag s) :=
  congrArg Host.Outcome.next (bodilessRecord_idle h .loadCommit tag (takeLoadCommit tag))

theorem exec_loadEntry_idle {s : State} (h : linkIdle s) (tag : Tag) (body : List Byte) :
    exec (.loadEntry tag body) s = .next (takeLoadEntry tag body s) :=
  congrArg Host.Outcome.next (intake_idle h (recordKindCode .loadEntry) tag body (takeLoadEntry tag body))

/-- A commit of a CLEAN load with nothing remaining, in IDLE or HALTED, is judged by its buffer (R158). -/
theorem takeLoadCommit_clean {s : State} {l : Load} (hl : s.intake.load = some l) (hr : l.remaining = 0)
    (hm : l.mark = .clean) (hp : s.path.state = .idle ∨ s.path.state = .halted) (tag : Tag) :
    takeLoadCommit tag s = commitBuffer tag l s := by
  have hparked : pathParked s.path = true := by simpa [pathParked] using hp
  simp [takeLoadCommit, hl, hr, commitLoad, hm, hparked]

/-- A complete segment load whose geometry holds is committed (R17, R159, R160). -/
theorem commitBuffer_segment {s : State} {l : Load} {m d : SegmentEntry} (hb : l.buffer = .segment (some m) (some d))
    (hg : checkSegment ⟨m, d⟩ s.tables = true) (tag : Tag) :
    commitBuffer tag l s
      = committedReport .segment none tag (commitSegment ⟨m, d⟩ l.wroteMain l.wroteDuplex (closeLoad s)) := by
  simp [commitBuffer, hb, hg]

/-- A commit of a belt load changes no trim, committed or discarded. -/
theorem takeLoadCommit_belt_trims {s : State} {l : Load} {b : Option BeltEntry} (hl : s.intake.load = some l)
    (hb : l.buffer = .belt b) (tag : Tag) :
    let c := (takeLoadCommit tag s).counters
    c.main.trim = s.counters.main.trim ∧ c.duplex.trim = s.counters.duplex.trim
      ∧ c.belt.trim = s.counters.belt.trim := by
  rcases takeLoadCommit_counters_cases tag s with h | ⟨l', hl', h⟩
  · simp [h]
  · obtain rfl : l = l' := Option.some.inj (hl.symm.trans hl')
    rcases commitBuffer_counters_cases tag l s with h' | ⟨m, d, hs, -⟩ | ⟨b', -, h'⟩
    · simp [h, h']
    · cases hb.symm.trans hs
    · simp [h, h']

/-- A LOAD ENTRY of a segment load that expects one is judged against its buffer, one entry fewer remaining (R155). -/
theorem takeLoadEntry_segment {s : State} {l : Load} {m d : Option SegmentEntry} (hl : s.intake.load = some l)
    (hr : 0 < l.remaining) (hb : l.buffer = .segment m d) (tag : Tag) (body : List Byte) :
    takeLoadEntry tag body s = segmentLoadEntry body m d { l with remaining := l.remaining - 1 } s := by
  obtain ⟨buffer, remaining, mark, wroteMain, wroteDuplex⟩ := l
  cases hb
  simp [takeLoadEntry, hl, show 0 < remaining from hr, writeEntry]

/-- A well-formed segment entry notes its own segment as written, and the other as before (R17, R155). -/
theorem segmentLoadEntry_wrote {body : List Byte} {e : SegmentEntry} (hlen : body.length = 7)
    (hi : fieldNat body 0 1 ≤ 1) (he : parseSegmentEntry body = some e)
    (m d : Option SegmentEntry) (l : Load) (s : State) :
    ∃ l', segmentLoadEntry body m d l s = setLoad l' s
      ∧ l'.wroteMain = (l.wroteMain || decide (fieldNat body 0 1 = 0))
      ∧ l'.wroteDuplex = (l.wroteDuplex || decide (fieldNat body 0 1 = 1)) := by
  unfold segmentLoadEntry
  rw [if_pos ⟨hlen, hi⟩, he]
  dsimp only
  split
  · rename_i h0
    exact ⟨_, rfl, by simp [h0], by simp [h0]⟩
  · rename_i h0
    have h1 : fieldNat body 0 1 = 1 := by omega
    exact ⟨_, rfl, by simp [h1], by simp [h1]⟩

/-- Settles O36: the commit by its equation, the belt commit by what a commit can do to the counters, and the entry by what
it notes. -/
theorem segmentCommitZeroesWrittenTrims : Obligations.SegmentCommitZeroesWrittenTrims := by
  unfold Obligations.SegmentCommitZeroesWrittenTrims
  refine ⟨fun s tag l m d hidle hl hr hm hb hp hg hroom => ?_, fun s t tag l b hidle hl _ hb ht => ?_,
    fun s tag body l m d e hidle hl hr hb hlen he hi => ?_⟩
  · rw [exec_loadCommit_idle hidle, takeLoadCommit_clean hl hr hm hp, commitBuffer_segment hb hg]
    have hq : enqueueReport (.table .segment (.committed none) tag) s.report
        = withReports [.table .segment (.committed none) tag] s.report := enqueueReport_room hroom
    simp [committedReport, sendReport, commitSegment, closeLoad, rescale, hq]
  · rw [exec_loadCommit_idle hidle] at ht
    cases ht
    exact takeLoadCommit_belt_trims hl hb tag
  · obtain ⟨l', hw, hmain, hduplex⟩ := segmentLoadEntry_wrote hlen hi he m d { l with remaining := l.remaining - 1 } s
    refine ⟨_, l', exec_loadEntry_idle hidle tag body, ?_, hmain, hduplex⟩
    rw [takeLoadEntry_segment hl hr hb, hw]
    rfl

end Sys2Proof.Machine

/-! # The run's records START RUN, RESUME, END RUN and PATH CLEARED (R138, R142, R143, R149)

How each is taken on an idle link, what its clearances read, and one equation per case of its judgement; then the four
statements. -/

namespace Sys2Proof.Machine

/-! ## A record taken at once with no load open -/

section Taken

variable {s : State} (tag : Tag)

theorem exec_startRun_ready (h : recordReady s) (body : List Byte) (shelf ready : Wire) :
    exec (.startRun tag body shelf ready) s = .next (takeStartRun tag body (readShelfAndReady shelf ready s)) :=
  congrArg Host.Outcome.next (plainRecord_ready (s := readShelfAndReady shelf ready s) h .startRun tag body _)

/-- A bodiless record so taken acts on the state as it is. -/
theorem bodilessRecord_ready (h : recordReady s) (kind : RecordKind) (act : State → State) :
    bodilessRecord kind tag [] (fun s => act (interrupt tag s)) s = act s := by
  obtain ⟨hidle, hload⟩ := h
  rw [bodilessRecord_idle hidle, interrupt_none hload]

theorem exec_resume_ready (h : recordReady s) (ready : Wire) :
    exec (.resume tag [] ready) s = .next (takeResume tag (readReady ready s)) :=
  congrArg Host.Outcome.next (bodilessRecord_ready (s := readReady ready s) tag h .resume (takeResume tag))

theorem exec_endRun_ready (h : recordReady s) : exec (.endRun tag []) s = .next (takeEndRun tag s) :=
  congrArg Host.Outcome.next (bodilessRecord_ready tag h .endRun (takeEndRun tag))

theorem exec_pathCleared_ready (h : recordReady s) (shelf ready : Wire) :
    exec (.pathCleared tag [] shelf ready) s = .next (takePathCleared tag (readShelfAndReady shelf ready s)) :=
  congrArg Host.Outcome.next
    (bodilessRecord_ready (s := readShelfAndReady shelf ready s) tag h .pathCleared (takePathCleared tag))

end Taken

/-! ## What the judgements read -/

/-- The ranges of a START RUN's numbers (R138). -/
theorem startRunInRange_iff (p : RunParams) :
    startRunInRange p = true ↔ p.setGap ≤ 3 ∧ 100 ≤ p.timeout ∧ p.timeout ≤ 5000 := decide_eq_true_iff

/-- The clearances of START RUN (R138). -/
theorem startClear_iff (s : State) :
    startClear s = true ↔ linesClear s ∧ shelfEmptyRead s = true ∧ s.collator.mode = .empty ∧ collatorReadyRead s = true
      ∧ stopSetActive s.path = false := by
  simp only [startClear, Bool.and_eq_true, sensorsClear_iff, decide_eq_true_iff, Bool.not_eq_true', and_assoc]

/-- The conditions that keep RESUME from being taken (R142). -/
theorem stopConditionLatched_iff (latch : BitVec 16) :
    stopConditionLatched latch = true ↔ hasCondition latch .jam = true ∨ hasCondition latch .beltSlip = true
      ∨ hasCondition latch .collatorFault = true ∨ hasCondition latch .externalStop = true := by
  simp only [stopConditionLatched, Bool.or_eq_true, or_assoc]

/-- The machine is at rest after 200 ms of silence (R148). -/
theorem atRest_iff (p : PathControl) : atRest p = true ↔ 200 ≤ p.silence := decide_eq_true_iff

/-- The clearances of PATH CLEARED (R149). -/
theorem pathIsClear_iff (s : State) :
    pathIsClear s = true ↔ 200 ≤ s.path.silence ∧ linesClear s ∧ shelfEmptyRead s = true ∧ s.path.stopUpstream = false
      ∧ s.path.stopCollator = false ∧ s.path.stopPanel = false := by
  simp only [pathIsClear, lineStopActive, Bool.and_eq_true, atRest_iff, sensorsClear_iff, Bool.not_eq_true',
    Bool.or_eq_false_iff, and_assoc]

/-! ## Room for reports -/

/-- Room for more reports is room for fewer. -/
theorem reportRoom_mono {s : State} {m n : Nat} (hmn : m ≤ n) (h : reportRoom n s) : reportRoom m s := by
  unfold reportRoom at h ⊢
  omega

/-- With room, a change of the path state queues its PATH report behind the others (R135). -/
theorem setPathState_room {s : State} (h : reportRoom 1 s) (st : PathState) :
    setPathState st s = { s with
      path := { s.path with state := st }
      report := withReports [.path st s.path.runActive] s.report } := by
  have hq : enqueueReport (.path st s.path.runActive) s.report = withReports [.path st s.path.runActive] s.report :=
    enqueueReport_room h
  simp [setPathState, pathReport, withPathState, sendReport, hq]

/-! ## START RUN (R138) -/

section StartRun

variable {s : State} {tag : Tag} {body : List Byte} {p : RunParams}

theorem takeStartRun_of_ne_idle (h : s.path.state ≠ .idle) :
    takeStartRun tag body s = refuse (some tag) (some .startRun) .wrongState s := by
  simp [takeStartRun, h]

theorem takeStartRun_malformed (h : s.path.state = .idle) (hb : parseStartRun body = none) :
    takeStartRun tag body s = refuse (some tag) (some .startRun) .badField s := by
  simp [takeStartRun, h, hb]

theorem takeStartRun_outOfRange (h : s.path.state = .idle) (hb : parseStartRun body = some p)
    (hr : ¬startRunInRange p = true) :
    takeStartRun tag body s = refuse (some tag) (some .startRun) .outOfRange s := by
  simp [takeStartRun, h, hb, hr]

theorem takeStartRun_incomplete (h : s.path.state = .idle) (hb : parseStartRun body = some p)
    (hr : startRunInRange p = true) (ht : ¬tablesComplete s.tables = true) :
    takeStartRun tag body s = refuse (some tag) (some .startRun) .tablesIncomplete s := by
  simp [takeStartRun, h, hb, hr, ht]

theorem takeStartRun_notClear (h : s.path.state = .idle) (hb : parseStartRun body = some p)
    (hr : startRunInRange p = true) (ht : tablesComplete s.tables = true) (hc : ¬startClear s = true) :
    takeStartRun tag body s = refuse (some tag) (some .startRun) .notClear s := by
  simp [takeStartRun, h, hb, hr, ht, hc]

theorem takeStartRun_taken (h : s.path.state = .idle) (hb : parseStartRun body = some p)
    (hr : startRunInRange p = true) (ht : tablesComplete s.tables = true) (hc : startClear s = true) :
    takeStartRun tag body s = beginRun p s := by
  simp [takeStartRun, h, hb, hr, ht, hc]

end StartRun

/-- Settles O22, by the cases of R138's table in their order. -/
theorem startRunIsJudged : Obligations.StartRunIsJudged := by
  unfold Obligations.StartRunIsJudged
  intro s tag body shelf ready hready hroom
  dsimp only
  rw [exec_startRun_ready tag hready]
  have hrefuse := refuse_room (s := readShelfAndReady shelf ready s) hroom (some tag) (some .startRun)
  refine ⟨fun hne => ?_, fun hidle hbody => ?_, fun p hidle hbody => ⟨fun hout => ?_, fun hgap hlow hhigh => ?_⟩⟩
  · rw [takeStartRun_of_ne_idle (by exact hne), hrefuse]
    rfl
  · rw [takeStartRun_malformed (by exact hidle) hbody, hrefuse]
    rfl
  · have hrange : ¬startRunInRange p = true := by
      rw [startRunInRange_iff]
      omega
    rw [takeStartRun_outOfRange (by exact hidle) hbody hrange, hrefuse]
    rfl
  have hrange : startRunInRange p = true := (startRunInRange_iff p).2 ⟨hgap, hlow, hhigh⟩
  have hclear := startClear_iff (readShelfAndReady shelf ready s)
  rw [← tablesComplete_iff]
  refine ⟨fun hincomplete => ?_, fun hcomplete hblocked => ?_, fun hcomplete hfree => ?_⟩
  · rw [takeStartRun_incomplete (by exact hidle) hbody hrange (by exact hincomplete), hrefuse]
    rfl
  · rw [takeStartRun_notClear (by exact hidle) hbody hrange (by exact hcomplete) (mt hclear.1 hblocked), hrefuse]
    rfl
  · rw [takeStartRun_taken (by exact hidle) hbody hrange (by exact hcomplete) (hclear.2 hfree)]
    exact ⟨_, rfl, rfl, rfl, rfl⟩

/-! ## RESUME (R142) -/

section Resume

variable {s : State} {tag : Tag}

theorem takeResume_halting (h : s.path.state = .halting) : takeResume tag s = setPathState .running s := by
  simp [takeResume, h]

theorem takeResume_running (h : s.path.state = .running) : takeResume tag s = s := by simp [takeResume, h]

theorem takeResume_latched (h : s.path.state = .halted) (hl : stopConditionLatched s.report.latch = true) :
    takeResume tag s = refuse (some tag) (some .resume) .conditionsSet s := by
  simp [takeResume, h, hl]

/-- In HALTED, no condition keeping it, a RESUME is judged by its clearances. -/
theorem takeResume_unlatched (h : s.path.state = .halted) (hl : ¬stopConditionLatched s.report.latch = true) :
    takeResume tag s =
      if s.collator.mode = .empty ∧ collatorReadyRead s = true ∧ stopSetActive s.path = false then resumeRun s
      else refuse (some tag) (some .resume) .notClear s := by
  simp [takeResume, h, hl]

theorem takeResume_outside (h : s.path.state = .idle ∨ s.path.state = .stopped) :
    takeResume tag s = refuse (some tag) (some .resume) .wrongState s := by
  rcases h with h | h <;> simp [takeResume, h]

/-- With room, the run goes on with the drives on, the belt UNSYNCED and the blank count 0 (R137, R142). -/
theorem resumeRun_room (h : reportRoom 1 s) :
    resumeRun s = { s with
      path := { s.path with state := .running, drives := true }
      sched := { s.sched with seam := none, nextPitch := 0, blanks := 0 }
      points := pointsBut isBeltPoint s.points
      report := withReports [.path .running s.path.runActive] s.report } := by
  have hq : enqueueReport (.path .running s.path.runActive) s.report
      = withReports [.path .running s.path.runActive] s.report := enqueueReport_room h
  simp [resumeRun, pathReport, driveStart, desync, dropPoints, withPathState, sendReport, pointsBut, hq]

end Resume

/-- Settles O24, by the path state, and in HALTED by the latch and the clearances. -/
theorem resumeResumesOrIsRefused : Obligations.ResumeResumesOrIsRefused := by
  unfold Obligations.ResumeResumesOrIsRefused
  intro s tag ready hready hroom
  dsimp only
  rw [exec_resume_ready tag hready, ← stopConditionLatched_iff]
  have hrefuse := refuse_room (s := readReady ready s) hroom (some tag) (some .resume)
  have hroom1 : reportRoom 1 (readReady ready s) := reportRoom_mono (s := s) (by omega) hroom
  refine ⟨fun hhalting => ?_, fun hrunning => ?_, fun hhalted hlatched => ?_, fun hhalted hlatched hblocked => ?_,
    fun hhalted hlatched hclear => ?_, fun hout => ?_⟩
  · rw [takeResume_halting (by exact hhalting), setPathState_room hroom1]
    rfl
  · rw [takeResume_running (by exact hrunning)]
    rfl
  · rw [takeResume_latched (by exact hhalted) (by exact hlatched), hrefuse]
    rfl
  · rw [takeResume_unlatched (by exact hhalted) (by exact hlatched), if_neg (by exact hblocked), hrefuse]
    rfl
  · rw [takeResume_unlatched (by exact hhalted) (by exact hlatched), if_pos (by exact hclear), resumeRun_room hroom1]
    rfl
  · rw [takeResume_outside (by exact hout), hrefuse]
    rfl

/-! ## END RUN (R57, R143) -/

section EndRun

variable {s : State} {tag : Tag}

theorem takeEndRun_halted (h : s.path.state = .halted) :
    takeEndRun tag s =
      if s.collator.mode ≠ .empty then refuse (some tag) (some .endRun) .notClear s
      else setPathState .idle (clearRun (withdrawAll (discardOrders s))) := by
  simp [takeEndRun, h]

theorem takeEndRun_of_ne_halted (h : s.path.state ≠ .halted) :
    takeEndRun tag s = refuse (some tag) (some .endRun) .wrongState s := by
  unfold takeEndRun
  cases hs : s.path.state
  case halted => exact absurd hs h
  all_goals rfl

/-- The withdrawals' reports, one for each set that is not FAILED, in registry order (R57, R59). -/
def withdrawals (reg : List SetEntry) : List ReportBody :=
  (reg.filter (fun e => decide (e.state ≠ .failed))).map (fun e => .setDone e.set e.attempt .withdrawn 0)

theorem withdrawals_length_le (reg : List SetEntry) : (withdrawals reg).length ≤ reg.length := by
  simp only [withdrawals, List.length_map]
  exact List.length_filter_le _ _

/-- With room, the withdrawal empties the registry and queues the withdrawals' reports (R57). -/
theorem withdrawAll_room (h : reportRoom s.registry.length s) :
    withdrawAll s = { s with registry := [], report := withReports (withdrawals s.registry) s.report } := by
  unfold withdrawAll
  rw [withdrawReports_room s.registry s h]
  rfl

/-- With room for its reports the end of a run queues the withdrawals and then its PATH report (R143). -/
theorem endRun_room (h : reportRoom (s.registry.length + 1) s) :
    setPathState .idle (clearRun (withdrawAll (discardOrders s))) = { s with
      orders := []
      registry := []
      tables := (s.orders.map (fun o => o.gen)).foldl (fun t b => releaseRef b t) s.tables
      path := { s.path with state := .idle, runActive := false, params := none }
      report := withReports (withdrawals s.registry ++ [.path .idle false]) s.report } := by
  have hwithdraw := withdrawAll_room (s := discardOrders s) (reportRoom_mono (s := s) (Nat.le_succ _) h)
  have hroom : reportRoom 1 (clearRun (withdrawAll (discardOrders s))) := by
    have := withdrawals_length_le s.registry
    rw [hwithdraw]
    simp only [reportRoom, clearRun_report, withReports_queue, List.length_append, List.length_map, discardOrders_report,
      discardOrders_registry] at h ⊢
    omega
  rw [setPathState_room hroom, hwithdraw]
  simp only [clearRun, ← withReports_append]
  rfl

end EndRun

/-- Settles O25: the taken END RUN by the withdrawal's reports, its refusals by their cases. -/
theorem endRunWithdrawsEverySet : Obligations.EndRunWithdrawsEverySet := by
  unfold Obligations.EndRunWithdrawsEverySet
  intro s tag hready
  rw [exec_endRun_ready tag hready]
  refine ⟨fun hhalted hempty hroom => ?_, fun hhalted hfull hroom => ?_, fun hne hroom => ?_⟩
  · rw [takeEndRun_halted hhalted, if_neg (not_not.2 hempty), endRun_room hroom]
    rfl
  · rw [takeEndRun_halted hhalted, if_pos hfull, refuse_room hroom]
  · rw [takeEndRun_of_ne_halted hne, refuse_room hroom]

/-! ## PATH CLEARED (R132, R149, R150) -/

section PathCleared

variable {s : State} {tag : Tag}

/-- No sheet is in the path, on the shelf or in the pitch ring. -/
def PathEmpty (s : State) : Prop := s.tracker.table = [] ∧ s.shelf = [] ∧ s.sched.ring = []

theorem takePathCleared_of_ne_stopped (h : s.path.state ≠ .stopped) :
    takePathCleared tag s = refuse (some tag) (some .pathCleared) .wrongState s := by
  simp [takePathCleared, h]

theorem takePathCleared_unclear (h : s.path.state = .stopped) (hc : ¬pathIsClear s = true) :
    takePathCleared tag s = refuse (some tag) (some .pathCleared) .notClear s := by
  simp [takePathCleared, h, hc]

/-- A PATH CLEARED that is clear recovers the path, and a FAULTED collator that is not ready faults it anew (R132). -/
theorem takePathCleared_clear (h : s.path.state = .stopped) (hc : pathIsClear s = true) :
    takePathCleared tag s =
      if s.collator.mode = .faulted ∧ collatorReadyRead s = false then refault (recover s) else recover s := by
  simp [takePathCleared, h, hc]

/-- Operations on sets put no sheet into an empty path. -/
theorem SetFrame.pathEmpty {s t : State} (h : SetFrame s t) (hs : PathEmpty s) : PathEmpty t := by
  obtain ⟨htable, hshelf, hring⟩ := hs
  obtain ⟨heq, -, ⟨hflags, -, -⟩, -⟩ := h
  refine ⟨?_, by rw [heq]; exact hshelf, by rw [heq]; exact hring⟩
  simpa [htable] using hflags

/-- A recovery empties the path (R82, R110, R119, R150). -/
theorem pathEmpty_recover (s : State) : PathEmpty (recover s) := by
  have hflushed : PathEmpty (collatorRecover (flushScheduler (flushSheets (resample s)))) := by
    rw [collatorRecover_frame]
    exact ⟨rfl, rfl, rfl⟩
  have hstranded := (setFrame_strandSets
    (s.tracker.table.map (fun e => e.sheet.set) ++ (collatorHands s).toList) (namedSet s.path) _).pathEmpty hflushed
  obtain ⟨htable, hshelf, hring⟩ := hstranded
  unfold recover
  exact ⟨by simpa using htable, by simpa using hshelf, by simpa using hring⟩

/-- Entering STOPPED strands the entries there are, and adds none. -/
theorem pathEmpty_enterStopped (h : PathEmpty s) (r : StopRecord) : PathEmpty (enterStopped r s) := by
  obtain ⟨htable, hshelf, hring⟩ := h
  simp [PathEmpty, enterStopped, htable, hshelf, hring]

/-- Raising the fault stop anew leaves the path empty. -/
theorem pathEmpty_refault (h : PathEmpty s) : PathEmpty (refault s) := by
  unfold refault raiseFault
  split
  · exact h
  · exact pathEmpty_enterStopped (by exact h) _

/-- A PATH CLEARED that is clear leaves the path empty, whatever the collator. -/
theorem pathEmpty_takePathCleared (h : s.path.state = .stopped) (hc : pathIsClear s = true) :
    PathEmpty (takePathCleared tag s) := by
  rw [takePathCleared_clear h hc]
  split
  · exact pathEmpty_refault (pathEmpty_recover s)
  · exact pathEmpty_recover s

end PathCleared

/-- Settles O26: the refusals by their cases, and a taken PATH CLEARED by what a recovery empties. -/
theorem pathClearedIsJudged : Obligations.PathClearedIsJudged := by
  unfold Obligations.PathClearedIsJudged
  intro s tag shelf ready hready hroom
  dsimp only
  rw [exec_pathCleared_ready tag hready]
  have hrefuse := refuse_room (s := readShelfAndReady shelf ready s) hroom (some tag) (some .pathCleared)
  have hclear := pathIsClear_iff (readShelfAndReady shelf ready s)
  refine ⟨fun hne => ?_, fun hstopped hblocked => ?_, fun hstopped hfree => ?_⟩
  · rw [takePathCleared_of_ne_stopped (by exact hne), hrefuse]
    rfl
  · rw [takePathCleared_unclear (by exact hstopped) (mt hclear.1 hblocked), hrefuse]
    rfl
  · exact ⟨_, rfl, pathEmpty_takePathCleared hstopped (hclear.2 hfree)⟩

end Sys2Proof.Machine

/-! # LOAD ABORT, and the load records with no load open (R161)

One equation per record and load state, then the statement. -/

namespace Sys2Proof.Machine

section LoadRecords

variable {s : State} (tag : Tag)

theorem exec_loadAbort_idle (h : linkIdle s) : exec (.loadAbort tag []) s = .next (takeLoadAbort tag s) :=
  congrArg Host.Outcome.next (bodilessRecord_idle h .loadAbort tag (takeLoadAbort tag))

/-! ## With no load open -/

theorem takeLoadEntry_none (h : s.intake.load = none) (body : List Byte) :
    takeLoadEntry tag body s = refuse (some tag) (some .loadEntry) .noLoad s := by
  simp [takeLoadEntry, h]

theorem takeLoadCommit_none (h : s.intake.load = none) :
    takeLoadCommit tag s = refuse (some tag) (some .loadCommit) .noLoad s := by
  simp [takeLoadCommit, h]

theorem takeLoadAbort_none (h : s.intake.load = none) :
    takeLoadAbort tag s = refuse (some tag) (some .loadAbort) .noLoad s := by
  simp [takeLoadAbort, h]

/-! ## With a load open -/

theorem takeLoadAbort_some {l : Load} (h : s.intake.load = some l) :
    takeLoadAbort tag s = sendReport (.table (loadTable l) (.discarded .aborted) tag) (dropLoad s) := by
  simp [takeLoadAbort, h]

/-- Dropping an open load frees the inactive bank of a MEDIA load and leaves the tables of another (R163). -/
theorem dropLoad_some {l : Load} (h : s.intake.load = some l) :
    dropLoad s = { s with
      intake := { s.intake with load := none }
      tables := if l.buffer = .media then { s.tables with inactive := .free } else s.tables } := by
  simp only [dropLoad, h]
  cases l.buffer <;> simp

/-- With room, an abort drops the load and its TABLE report joins the queue; the remaining count and the mark are not read. -/
theorem takeLoadAbort_room {l : Load} (h : s.intake.load = some l) (hroom : reportRoom 1 s) :
    takeLoadAbort tag s = { s with
      intake := { s.intake with load := none }
      tables := if l.buffer = .media then { s.tables with inactive := .free } else s.tables
      report := withReports [.table (loadTable l) (.discarded .aborted) tag] s.report } := by
  rw [takeLoadAbort_some tag h, dropLoad_some h, ← enqueueReport_room hroom]
  rfl

end LoadRecords

/-- Settles O37: the abort by its equation, and the refusals by the equations with no load open. -/
theorem loadAbortDiscardsTheLoad : Obligations.LoadAbortDiscardsTheLoad := by
  unfold Obligations.LoadAbortDiscardsTheLoad
  refine ⟨fun s tag l hidle hl hroom => ?_, fun s tag body ⟨hidle, hnone⟩ hroom => ⟨?_, ?_, ?_⟩⟩
  · rw [exec_loadAbort_idle tag hidle, takeLoadAbort_room tag hl hroom]
  · rw [exec_loadEntry_idle hidle, takeLoadEntry_none tag hnone, refuse_room hroom]
  · rw [exec_loadCommit_idle hidle, takeLoadCommit_none tag hnone, refuse_room hroom]
  · rw [exec_loadAbort_idle tag hidle, takeLoadAbort_none tag hnone, refuse_room hroom]

end Sys2Proof.Machine
